-- ==== Sys2Proof/Word.lean ====
section
/-! DEFINITION. The cell, the one word of the machine (R7), and the shape of its memories (R50, R51).

A cell is one signed integer of `W` bits, and `W` is a parameter of the unit (R5). So a cell is an `Int` of Lean, and
`cellFits` says that it is one of the `W`-bit two's-complement integers (notes/assumptions/1.md). -/

namespace Sys2Proof

/-- `INT_MIN = -2^(W-1)` (R7). -/
def intMin (w : Nat) : Int := -((2 ^ (w - 1) : Nat) : Int)

/-- `INT_MAX = 2^(W-1) - 1` (R7). -/
def intMax (w : Nat) : Int := ((2 ^ (w - 1) : Nat) : Int) - 1

/-- A data memory (`S` or `G`): the cells written since reset, as pairs of a cell index and the cell, indices strictly
rising. The unit is cell-addressed and has no bytes (R51, R52), so the entries are whole cells
(notes/assumptions/5.md, notes/assumptions/6.md). -/
abbrev Memory := List (Nat × Int)

end Sys2Proof
end

