-- ==== Sys2Proof/Machine/Alu.lean ====
section
/-! DEFINITION. The integer ALU: the arithmetic of R8 and the results of ADD, SUB, MUL, DIV, MOD and NEG at width `w`. -/

namespace Sys2Proof.Machine

/-- `wrap(v)`: the cell congruent to `v` modulo `2^W` (R8). -/
def wrap (w : Nat) (v : Int) : Int :=
  (v + ((2 ^ (w - 1) : Nat) : Int)) % ((2 ^ w : Nat) : Int) - ((2 ^ (w - 1) : Nat) : Int)

/-- `tdiv(a, b)`: the quotient rounded toward zero, `sign(a) * sign(b) * floor(|a| / |b|)` (R8). -/
def tdiv (a b : Int) : Int := a.sign * b.sign * ((a.natAbs / b.natAbs : Nat) : Int)

/-- `trem(a, b) = a - b * tdiv(a, b)` (R8). -/
def trem (a b : Int) : Int := a - b * tdiv a b

/-- The result of ADD (R121). -/
def aluAdd (w : Nat) (a b : Int) : Int := wrap w (a + b)

/-- The result of SUB (R122). -/
def aluSub (w : Nat) (a b : Int) : Int := wrap w (a - b)

/-- The result of MUL (R123). -/
def aluMul (w : Nat) (a b : Int) : Int := wrap w (a * b)

/-- The result of DIV for a divisor that is not zero (R124). -/
def aluDiv (w : Nat) (a b : Int) : Int := wrap w (tdiv a b)

/-- The result of MOD for a divisor that is not zero (R125): it never needs `wrap`. -/
def aluMod (a b : Int) : Int := trem a b

/-- The result of NEG (R134). -/
def aluNeg (w : Nat) (a : Int) : Int := wrap w (0 - a)

end Sys2Proof.Machine
end

