-- ==== Sys2Proof/Syntax.lean ====
section
/-! DEFINITION. The 27 opcodes and the instructions: one constructor per row of the opcode table (R2, R81). -/

namespace Sys2Proof

/-- The 27 mnemonics of R2, in the order of the table of R85. -/
inductive Opcode where
  | add
  | sub
  | mul
  | div
  | mod
  | lt
  | gt
  | leq
  | geq
  | eq
  | and
  | or
  | not
  | neg
  | jmp
  | jmpt
  | jmpf
  | const
  | load
  | store
  | gload
  | gstore
  | print
  | pop
  | halt
  | call
  | ret
  deriving DecidableEq, Repr

/-- The 27 opcodes in the order of R2. -/
def Opcode.all : List Opcode :=
  [.add, .sub, .mul, .div, .mod, .lt, .gt, .leq, .geq, .eq, .and, .or, .not, .neg,
   .jmp, .jmpt, .jmpf, .const, .load, .store, .gload, .gstore, .print, .pop, .halt, .call, .ret]

/-- The mnemonic of an opcode, as R2 spells it. -/
def Opcode.mnemonic : Opcode → String
  | .add => "ADD"
  | .sub => "SUB"
  | .mul => "MUL"
  | .div => "DIV"
  | .mod => "MOD"
  | .lt => "LT"
  | .gt => "GT"
  | .leq => "LEQ"
  | .geq => "GEQ"
  | .eq => "EQ"
  | .and => "AND"
  | .or => "OR"
  | .not => "NOT"
  | .neg => "NEG"
  | .jmp => "JMP"
  | .jmpt => "JMPT"
  | .jmpf => "JMPF"
  | .const => "CONST"
  | .load => "LOAD"
  | .store => "STORE"
  | .gload => "GLOAD"
  | .gstore => "GSTORE"
  | .print => "PRINT"
  | .pop => "POP"
  | .halt => "HALT"
  | .call => "CALL"
  | .ret => "RET"

/-- One instruction with its inline operands, each a whole cell (R81, R83). Stack operands are not part of an
instruction (R84). -/
inductive Instr where
  /-- R121. -/
  | add
  /-- R122. -/
  | sub
  /-- R123. -/
  | mul
  /-- R124. -/
  | div
  /-- R125. -/
  | mod
  /-- R126. -/
  | lt
  /-- R127. -/
  | gt
  /-- R128. -/
  | leq
  /-- R129. -/
  | geq
  /-- R130. -/
  | eq
  /-- R131. -/
  | and
  /-- R132. -/
  | or
  /-- R133. -/
  | not
  /-- R134. -/
  | neg
  /-- R151. -/
  | jmp
  /-- R152. -/
  | jmpt
  /-- R153. -/
  | jmpf
  /-- R140. -/
  | const (literal : Int)
  /-- R142. -/
  | load
  /-- R143. -/
  | store (offset : Int)
  /-- R144. -/
  | gload
  /-- R145. -/
  | gstore (addr : Int)
  /-- R160. -/
  | print
  /-- R141. -/
  | pop
  /-- R161. -/
  | halt
  /-- R155. -/
  | call (target argcount localcount : Int)
  /-- R156. -/
  | ret
  deriving DecidableEq, Repr

/-- The opcode of an instruction. -/
def Instr.opcode : Instr → Opcode
  | .add => .add
  | .sub => .sub
  | .mul => .mul
  | .div => .div
  | .mod => .mod
  | .lt => .lt
  | .gt => .gt
  | .leq => .leq
  | .geq => .geq
  | .eq => .eq
  | .and => .and
  | .or => .or
  | .not => .not
  | .neg => .neg
  | .jmp => .jmp
  | .jmpt => .jmpt
  | .jmpf => .jmpf
  | .const _ => .const
  | .load => .load
  | .store _ => .store
  | .gload => .gload
  | .gstore _ => .gstore
  | .print => .print
  | .pop => .pop
  | .halt => .halt
  | .call _ _ _ => .call
  | .ret => .ret

/-- The inline operands of an instruction in stream order (R81). -/
def Instr.operands : Instr → List Int
  | .add => []
  | .sub => []
  | .mul => []
  | .div => []
  | .mod => []
  | .lt => []
  | .gt => []
  | .leq => []
  | .geq => []
  | .eq => []
  | .and => []
  | .or => []
  | .not => []
  | .neg => []
  | .jmp => []
  | .jmpt => []
  | .jmpf => []
  | .const literal => [literal]
  | .load => []
  | .store offset => [offset]
  | .gload => []
  | .gstore addr => [addr]
  | .print => []
  | .pop => []
  | .halt => []
  | .call target argcount localcount => [target, argcount, localcount]
  | .ret => []

end Sys2Proof
end

