-- ==== Sys2Proof/Config.lean ====
section
/-! DEFINITION. The parameters of one unit (R5), their defaults, and the free values the spec leaves open. -/

namespace Sys2Proof

/-- `OPC`: the cell value of each of the 27 mnemonics, one field a mnemonic (R5, R85). -/
structure OpcMap where
  add : Int
  sub : Int
  mul : Int
  div : Int
  mod : Int
  lt : Int
  gt : Int
  leq : Int
  geq : Int
  eq : Int
  and : Int
  or : Int
  not : Int
  neg : Int
  jmp : Int
  jmpt : Int
  jmpf : Int
  const : Int
  load : Int
  store : Int
  gload : Int
  gstore : Int
  print : Int
  pop : Int
  halt : Int
  call : Int
  ret : Int
  deriving DecidableEq, Repr

/-- `OPC(m)` for a mnemonic `m` (R5). -/
def OpcMap.code (m : OpcMap) : Opcode → Int
  | .add => m.add
  | .sub => m.sub
  | .mul => m.mul
  | .div => m.div
  | .mod => m.mod
  | .lt => m.lt
  | .gt => m.gt
  | .leq => m.leq
  | .geq => m.geq
  | .eq => m.eq
  | .and => m.and
  | .or => m.or
  | .not => m.not
  | .neg => m.neg
  | .jmp => m.jmp
  | .jmpt => m.jmpt
  | .jmpf => m.jmpf
  | .const => m.const
  | .load => m.load
  | .store => m.store
  | .gload => m.gload
  | .gstore => m.gstore
  | .print => m.print
  | .pop => m.pop
  | .halt => m.halt
  | .call => m.call
  | .ret => m.ret

/-- The constants of one instance of the unit: they do not change while it exists (R5). `PROG_LEN` is the length of
the instruction stream itself (notes/assumptions/2.md). -/
structure Params where
  /-- `W`, the width in bits of every cell and of pc, sp and fp. -/
  width : Nat
  /-- `STACK_CAP`, the number of cells of the operand stack. -/
  stackCap : Nat
  /-- `GLOBAL_SIZE`, the number of cells of global memory. -/
  globalSize : Nat
  /-- `OPC`, the opcode map. -/
  opc : OpcMap
  /-- `PC_RESET`, the program counter after reset. -/
  pcReset : Int
  /-- `FP_RESET`, the frame pointer after reset. -/
  fpReset : Int
  deriving DecidableEq, Repr

/-- The default opcode map: 1 to 27 in the order of R2 (R85; the spec's own choice D1). -/
def Config.opc : OpcMap where
  add := 1
  sub := 2
  mul := 3
  div := 4
  mod := 5
  lt := 6
  gt := 7
  leq := 8
  geq := 9
  eq := 10
  and := 11
  or := 12
  not := 13
  neg := 14
  jmp := 15
  jmpt := 16
  jmpf := 17
  const := 18
  load := 19
  store := 20
  gload := 21
  gstore := 22
  print := 23
  pop := 24
  halt := 25
  call := 26
  ret := 27

/-- The default parameters of R5: `W = 32`, `STACK_CAP = 100`, `GLOBAL_SIZE = 300`, the default `OPC`, `PC_RESET = 0`,
`FP_RESET = 0` (the spec's own choices D2, D1, D6, D7). -/
def Config.params : Params where
  width := 32
  stackCap := 100
  globalSize := 300
  opc := Config.opc
  pcReset := 0
  fpReset := 0

/-- `STACK_INIT`: a free value, which gives the content of stack cell `i` after reset number `n`, until it is written
(R35, R201, U3); the machine reduces it to a cell of its width. No body: nothing can be proved of any of its values
(notes/assumptions/4.md). -/
opaque Config.stackInit : Nat → Nat → Int

/-- `GLOBAL_INIT`: a free value, which gives the content of global cell `i` after reset number `n`, until it is written
(R35, R201, U4); the machine reduces it to a cell of its width. No body: nothing can be proved of any of its values
(notes/assumptions/4.md). -/
opaque Config.globalInit : Nat → Nat → Int

end Sys2Proof
end

