-- ==== Sys2Proof/WellFormed.lean ====
section
/-! DEFINITION. Well-formedness at the width `W` of the unit: the cells of R7, the bounds of R6 on the parameters, on the
opcode map and on the instruction stream, and the inline operands of an instruction. For every legal opcode every cell
is accepted as an inline operand (R88). -/

namespace Sys2Proof

/-- `v` is a cell of width `w`: `INT_MIN <= v <= INT_MAX` (R7). -/
def cellFits (w : Nat) (v : Int) : Bool := decide (intMin w ≤ v ∧ v ≤ intMax w)

/-- `W >= 8` (R6). -/
def Params.widthOk (p : Params) : Bool := decide (8 ≤ p.width)

/-- `1 <= STACK_CAP <= 2^(W-1) - 1` (R6). -/
def Params.stackCapOk (p : Params) : Bool := decide (1 ≤ p.stackCap ∧ p.stackCap ≤ 2 ^ (p.width - 1) - 1)

/-- `1 <= GLOBAL_SIZE <= 2^(W-1) - 1` (R6). -/
def Params.globalSizeOk (p : Params) : Bool := decide (1 ≤ p.globalSize ∧ p.globalSize ≤ 2 ^ (p.width - 1) - 1)

/-- `OPC` is injective (R6): the 27 codes are pairwise different. -/
def OpcMap.injective (m : OpcMap) : Bool := decide (Opcode.all.map m.code).Nodup

/-- Every `OPC(m)` is a `W`-bit signed integer (R6). -/
def OpcMap.fits (w : Nat) (m : OpcMap) : Bool := (Opcode.all.map m.code).all (cellFits w)

/-- `PC_RESET` and `FP_RESET` are values of a register, which holds one cell (R20). -/
def Params.resetsOk (p : Params) : Bool := cellFits p.width p.pcReset && cellFits p.width p.fpReset

/-- The parameters obey R6. -/
def Params.wf (p : Params) : Bool :=
  p.widthOk && p.stackCapOk && p.globalSizeOk && p.opc.injective && p.opc.fits p.width && p.resetsOk

/-- `0 <= PROG_LEN <= 2^(W-1) - 4` (R6). -/
def progLenOk (w : Nat) (prog : List Int) : Bool := decide (prog.length ≤ 2 ^ (w - 1) - 4)

/-- The instruction stream consists of cells: its port is `W` bits wide (R41). -/
def progCellsOk (w : Nat) (prog : List Int) : Bool := prog.all (cellFits w)

/-- Every inline operand of the instruction is a cell (R83). -/
def Instr.wf (w : Nat) (i : Instr) : Bool := i.operands.all (cellFits w)

end Sys2Proof
end

