-- ==== Sys2Proof/Decode.lean ====
section
/-! DEFINITION. Decoding and encoding of the instruction stream: the three formats of R81 and the opcode map of R85. -/

namespace Sys2Proof

/-- Why a run of cells is no instruction. -/
inductive DecodeError where
  /-- there is no opcode cell: the stream has ended (R58, R103) -/
  | noOpcodeCell
  /-- the opcode cell is none of the 27 values of `OPC` (R87, R102) -/
  | unknownOpcode (cell : Int)
  /-- the stream ends before the last inline operand of this opcode (R83, R103) -/
  | missingOperand (opcode : Opcode)
  deriving DecidableEq, Repr

/-- The number of inline-operand cells of an opcode: 0, 1 or 3 (R80, R81). -/
def inlineCount : Opcode → Nat
  | .add => 0
  | .sub => 0
  | .mul => 0
  | .div => 0
  | .mod => 0
  | .lt => 0
  | .gt => 0
  | .leq => 0
  | .geq => 0
  | .eq => 0
  | .and => 0
  | .or => 0
  | .not => 0
  | .neg => 0
  | .jmp => 0
  | .jmpt => 0
  | .jmpf => 0
  | .const => 1
  | .load => 0
  | .store => 1
  | .gload => 0
  | .gstore => 1
  | .print => 0
  | .pop => 0
  | .halt => 0
  | .call => 3
  | .ret => 0

/-- The reverse of the opcode map on its 27 values (R86): the opcode a whole opcode cell selects, if any (R102). -/
def opcodeOf? (m : OpcMap) (cell : Int) : Option Opcode :=
  Opcode.all.find? (fun o => decide (m.code o = cell))

/-- The instruction an opcode makes of the cells behind its opcode cell, and the cells left over; `none` when an
inline operand is missing. Operands are taken positionally, in stream order (R80, R81, R83). -/
def takeOperands : Opcode → List Int → Option (Instr × List Int)
  | .add, rest => some (.add, rest)
  | .sub, rest => some (.sub, rest)
  | .mul, rest => some (.mul, rest)
  | .div, rest => some (.div, rest)
  | .mod, rest => some (.mod, rest)
  | .lt, rest => some (.lt, rest)
  | .gt, rest => some (.gt, rest)
  | .leq, rest => some (.leq, rest)
  | .geq, rest => some (.geq, rest)
  | .eq, rest => some (.eq, rest)
  | .and, rest => some (.and, rest)
  | .or, rest => some (.or, rest)
  | .not, rest => some (.not, rest)
  | .neg, rest => some (.neg, rest)
  | .jmp, rest => some (.jmp, rest)
  | .jmpt, rest => some (.jmpt, rest)
  | .jmpf, rest => some (.jmpf, rest)
  | .const, imm0 :: rest => some (.const imm0, rest)
  | .const, [] => none
  | .load, rest => some (.load, rest)
  | .store, imm0 :: rest => some (.store imm0, rest)
  | .store, [] => none
  | .gload, rest => some (.gload, rest)
  | .gstore, imm0 :: rest => some (.gstore imm0, rest)
  | .gstore, [] => none
  | .print, rest => some (.print, rest)
  | .pop, rest => some (.pop, rest)
  | .halt, rest => some (.halt, rest)
  | .call, imm0 :: imm1 :: imm2 :: rest => some (.call imm0 imm1 imm2, rest)
  | .call, [] => none
  | .call, [_] => none
  | .call, [_, _] => none
  | .ret, rest => some (.ret, rest)

/-- Decode one instruction from the front of a run of cells: the opcode cell selects the opcode, the opcode gives the
length (R82). Total: what is no instruction is rejected by name. -/
def decode (m : OpcMap) : List Int → Except DecodeError (Instr × List Int)
  | [] => .error .noOpcodeCell
  | cell :: rest =>
    match opcodeOf? m cell with
    | none => .error (.unknownOpcode cell)
    | some o =>
      match takeOperands o rest with
      | none => .error (.missingOperand o)
      | some r => .ok r

/-- The cells of an instruction: `OPC(mnemonic)` and then the inline operands in stream order (R81, R90). -/
def encode (m : OpcMap) (i : Instr) : List Int := m.code i.opcode :: i.operands

/-- The cell whose `w` bits are the low bits of `bits`: bit `w - 1` is the sign (R7). -/
def cellOfBits (w bits : Nat) : Int :=
  let v := bits % 2 ^ w
  if v < 2 ^ (w - 1) then (v : Int) else (v : Int) - ((2 ^ w : Nat) : Int)

/-- The four cells of width `w` whose bits are `bits`, numbered from the least significant bit of the first cell, with
every bit above `nbits` zero. -/
def tableCells (w nbits bits : Nat) : List Int :=
  (List.range 4).map (fun j => cellOfBits w (bits % 2 ^ nbits / 2 ^ (w * j)))

/-- The instruction the decoder reads, under the default opcode map and width, from an instruction whose bits are `w`. -/
def decodeTableWord (nbits w : Nat) : Option Instr :=
  match decode Config.params.opc (tableCells Config.params.width nbits w) with
  | .ok (i, _) => some i
  | .error _ => none

/-- The assembly notation of R90: the mnemonic, then the inline operands as signed decimal integers. -/
def assembly (i : Instr) : String :=
  i.operands.foldl (fun line c => line ++ " " ++ toString c) i.opcode.mnemonic

end Sys2Proof
end

