-- ==== Sys2Proof/Machine/State.lean ====
section
/-! DEFINITION. The state of one unit, every piece the spec gives it (R20 to R35), the reasons a step can stop, and
the state after reset. -/

namespace Sys2Proof.Machine

/-- The run state (R25). The code 3 of R34 is never produced and has no constructor (U10). -/
inductive RunState where
  /-- the unit takes steps -/
  | running
  /-- a HALT has completed (R161) -/
  | halted
  /-- a step has faulted (R180) -/
  | faulted
  deriving DecidableEq, Repr

/-- The five kinds of fault of the unit (R170). The codes 6 and 7 of R34 have no constructor (U10). -/
inductive FaultKind where
  /-- R171 -/
  | stackOverflow
  /-- R172 -/
  | stackUnderflow
  /-- R173 -/
  | outOfBoundsMemoryAccess
  /-- R174 -/
  | arithmeticFault
  /-- R175 -/
  | unknownOpcode
  deriving DecidableEq, Repr

/-- The fault record: six read-only fields (R26, R34, R181). -/
structure FaultRecord where
  /-- `fault_kind`; `none` is the code 0 -/
  kind : Option FaultKind
  /-- `fault_opcode_valid` -/
  opcodeValid : Bool
  /-- `fault_opcode` -/
  opcode : Int
  /-- `fault_pc` -/
  pc : Int
  /-- `fault_sp` -/
  sp : Int
  /-- `fault_fp` -/
  fp : Int
  deriving DecidableEq, Repr

/-- The fault record as reset leaves it (R35) and as it reads while `run` is not `FAULTED` (R34). -/
def FaultRecord.clear : FaultRecord where
  kind := none
  opcodeValid := false
  opcode := 0
  pc := 0
  sp := 0
  fp := 0

/-- The state of one unit. -/
structure State where
  /-- program counter: index of the next opcode cell (R21) -/
  pc : Int
  /-- stack pointer: index of the top of the stack, -1 when empty (R23) -/
  sp : Int
  /-- frame pointer (R24) -/
  fp : Int
  /-- run state (R25) -/
  run : RunState
  /-- fault record (R26) -/
  faultRec : FaultRecord
  /-- `OUT`: the cells emitted since reset, oldest first (R27) -/
  out : List Int
  /-- `P`: the instruction stream; its length is `PROG_LEN` (R29, R40) -/
  prog : List Int
  /-- `S`: the operand stack, the cells written since reset (R29, R31) -/
  stack : Memory
  /-- `G`: global memory, the cells written since reset (R29) -/
  globals : Memory
  /-- the constants of this instance (R5) -/
  params : Params
  /-- the model's own field: how many resets came before this run; it selects the free contents that `S` and `G` have
  after a reset (notes/assumptions/4.md) -/
  resets : Nat
  deriving DecidableEq, Repr

/-- The reasons a step could stop the model with a fault: there are none. Every fault of the unit has an entry that
the spec describes (R180), so it is a next state with `run = FAULTED` (notes/assumptions/8.md); safe. -/
inductive Fault where
  deriving DecidableEq, Repr

/-- The reasons a step can be refused. -/
inductive Refusal where
  /-- raised by an arm of `exec` whose instruction has no meaning yet; no arm is left that raises it; safe -/
  | notModelled (mnemonic : String)
  /-- raised by `step` for a unit whose parameters or program length lie outside R6: the spec claims no rule for it
  and says `refuse` (U16; notes/assumptions/9.md); safe -/
  | parametersOutsideBounds
  deriving DecidableEq, Repr

/-- `s` with another program counter. -/
def State.setPc (s : State) (v : Int) : State := { s with pc := v }

/-- `s` with another stack pointer. -/
def State.setSpReg (s : State) (v : Int) : State := { s with sp := v }

/-- `s` with another frame pointer. -/
def State.setFp (s : State) (v : Int) : State := { s with fp := v }

/-- `s` with another run state. -/
def State.setRun (s : State) (v : RunState) : State := { s with run := v }

/-- `s` with another fault record. -/
def State.setFaultRec (s : State) (v : FaultRecord) : State := { s with faultRec := v }

/-- `s` with another output sequence. -/
def State.setOut (s : State) (v : List Int) : State := { s with out := v }

/-- `s` with other stack contents. -/
def State.setStack (s : State) (v : Memory) : State := { s with stack := v }

/-- `s` with other global contents. -/
def State.setGlobals (s : State) (v : Memory) : State := { s with globals := v }

/-- The reset state of R35 of a unit with parameters `p`, for the program the host supplied, after `n` earlier resets:
nothing is listed in `S` or `G`, so every cell of theirs reads as its free reset value. -/
def State.atReset (p : Params) (prog : List Int) (n : Nat) : State where
  pc := p.pcReset
  sp := -1
  fp := p.fpReset
  run := .running
  faultRec := FaultRecord.clear
  out := []
  prog := prog
  stack := []
  globals := []
  params := p
  resets := n

/-- The machine right after reset (R35, R200), at the default parameters of R5 and with no program supplied yet
(notes/assumptions/10.md). -/
def State.reset : State := State.atReset Config.params [] 0

end Sys2Proof.Machine
end

