-- ==== Sys2Proof/Machine/Memory.lean ====
section
/-! DEFINITION. The primitives `MemRead` and `MemWrite` of R10 over the data memories `S` and `G`. -/

namespace Sys2Proof

/-- The cell listed at index `i`: `none` means that nothing has written it since reset. -/
def Memory.cellAt : Memory → Nat → Option Int
  | [], _ => none
  | (j, v) :: m, i => if i = j then some v else Memory.cellAt m i

/-- `MemWrite(X, i, v)`: replaces cell `i` by `v` and changes nothing else (R10). It keeps the indices strictly
rising. -/
def Memory.write : Memory → Nat → Int → Memory
  | [], i, v => [(i, v)]
  | (j, w) :: m, i, v =>
    if i < j then (i, v) :: (j, w) :: m
    else if i = j then (i, v) :: m
    else (j, w) :: Memory.write m i v

/-- The canonical form: indices strictly rising. An unlisted index reads as no value at this level, so no entry can
equal what an unlisted index reads as (notes/assumptions/5.md). -/
def Memory.wf (m : Memory) : Bool := decide (m.Pairwise (fun a b => a.1 < b.1))

/-- Every listed index lies inside a memory of `size` cells (R51). -/
def Memory.within (m : Memory) (size : Nat) : Bool := decide (∀ c ∈ m, c.1 < size)

/-- Every listed cell is a cell of width `w` (R7). -/
def Memory.fits (m : Memory) (w : Nat) : Bool := m.all (fun c => cellFits w c.2)

namespace Machine

/-- `STACK_INIT` of cell `i` in this run: the free value as a cell of the unit's width (R35, U3). -/
def stackReset (s : State) (i : Nat) : Int := wrap s.params.width (Config.stackInit s.resets i)

/-- `GLOBAL_INIT` of cell `i` in this run: the free value as a cell of the unit's width (R35, U4). -/
def globalReset (s : State) (i : Nat) : Int := wrap s.params.width (Config.globalInit s.resets i)

/-- `MemRead(S, i)` (R10): the last value written, or the reset value if there is none (R31, R64). -/
def stackCell (s : State) (i : Nat) : Int := (s.stack.cellAt i).getD (stackReset s i)

/-- `MemRead(G, i)` (R10): the last value written, or the reset value if there is none (R64, R144). -/
def globalCell (s : State) (i : Nat) : Int := (s.globals.cellAt i).getD (globalReset s i)

/-- `MemWrite(S, i, v)` (R10). -/
def stackWrite (s : State) (i : Nat) (v : Int) : State := s.setStack (s.stack.write i v)

/-- `MemWrite(G, i, v)` (R10). -/
def globalWrite (s : State) (i : Nat) (v : Int) : State := s.setGlobals (s.globals.write i v)

end Machine

end Sys2Proof
end

