-- ==== Sys2Proof/Machine/Ops.lean ====
section
/-! DEFINITION. The checking primitives of R103 to R109, through which every instruction reaches memory and the stack
pointer (R69), and TAKING A FAULT as one shared operation (R180, R181). There is no return from a fault (R183). -/

namespace Sys2Proof.Machine

/-- The unit lies inside the bounds of R6, for which alone the rules hold (U16), and its stream consists of cells. -/
def covered (s : State) : Bool := s.params.wf && progLenOk s.params.width s.prog && progCellsOk s.params.width s.prog

/-- `Fetch(i)` (R103): the check is made at the fetch, on the unbounded integer `i`. -/
def fetch (s : State) (i : Int) : Except FaultKind Int :=
  if i < 0 then .error .outOfBoundsMemoryAccess
  else
    match s.prog[i.toNat]? with
    | none => .error .outOfBoundsMemoryAccess
    | some c => .ok c

/-- `Pop()` (R104): the cell read keeps its value (R31). -/
def pop (s : State) : Except FaultKind (Int × State) :=
  if s.sp < 0 then .error .stackUnderflow
  else .ok (stackCell s s.sp.toNat, s.setSpReg (s.sp - 1))

/-- `Push(v)` (R105): the fault comes before any memory is overwritten. -/
def push (v : Int) (s : State) : Except FaultKind State :=
  if s.sp + 1 > (s.params.stackCap : Int) - 1 then .error .stackOverflow
  else .ok (stackWrite (s.setSpReg (s.sp + 1)) (s.sp + 1).toNat v)

/-- `SetSP(v)` for an unbounded integer `v` (R106; the spec's own choice D15). No stack cell is read or written. -/
def setSp (v : Int) (s : State) : Except FaultKind State :=
  if v > (s.params.stackCap : Int) - 1 then .error .stackOverflow
  else if v < -1 then .error .stackUnderflow
  else .ok (s.setSpReg v)

/-- `StackAddr(e)` (R107): the bound is the whole stack array, not the part in use (R60). -/
def stackAddr (e : Int) (s : State) : Except FaultKind Nat :=
  if e < 0 ∨ e ≥ (s.params.stackCap : Int) then .error .outOfBoundsMemoryAccess
  else .ok e.toNat

/-- `GlobalAddr(e)` (R108). -/
def globalAddr (e : Int) (s : State) : Except FaultKind Nat :=
  if e < 0 ∨ e ≥ (s.params.globalSize : Int) then .error .outOfBoundsMemoryAccess
  else .ok e.toNat

/-- `Emit(v)` (R109): appends to `OUT`; it cannot fail and cannot block. -/
def emit (v : Int) (s : State) : State := s.setOut (s.out ++ [v])

/-- `pc <- p + 1 + k` for an instruction with `k` inline operands (R22, R100). -/
def advance (k : Nat) (s : State) : State := s.setPc (s.pc + 1 + k)

/-- The fault record of R181 for a fault of kind `k` in the step taken at `s`: the values of pc, sp and fp at the
instruction's fetch, and the opcode cell, which is valid unless its own fetch is what faulted. -/
def recordFault (k : FaultKind) (s : State) : FaultRecord :=
  match fetch s s.pc with
  | .ok c => { kind := some k, opcodeValid := true, opcode := c, pc := s.pc, sp := s.sp, fp := s.fp }
  | .error _ => { kind := some k, opcodeValid := false, opcode := 0, pc := s.pc, sp := s.sp, fp := s.fp }

/-- Taking a fault of kind `k` in the step taken at `s` (R180): everything is as it was when the instruction was
fetched, the fault record is written, and `run` becomes `FAULTED`. -/
def takeFault (k : FaultKind) (s : State) : State := (s.setFaultRec (recordFault k s)).setRun .faulted

/-- The outcome of an instruction at `s` (R11, R110): all its assignments together if no `raise` was reached, the
fault of the first `raise` otherwise. -/
def finish (s : State) (r : Except FaultKind State) : Host.Outcome State Fault Refusal :=
  match r with
  | .ok t => .next t
  | .error k => .next (takeFault k s)

end Sys2Proof.Machine
end

