-- ==== Sys2Proof/Machine/Operands.lean ====
section
/-! DEFINITION. The operand forms: two popped operands, one popped operand, and the frame-relative indices of LOAD and
STORE. Inline operands are the arguments of the instruction (R83); stack operands are popped in the order of R84. -/

namespace Sys2Proof.Machine

/-- The shape of the two-operand ALU instructions (R120): `b <- Pop(); a <- Pop(); Push(f a b); next <- p + 1`,
where `f` may raise a fault after both pops. -/
def binaryOp (f : Int → Int → Except FaultKind Int) (s : State) : Except FaultKind State := do
  let (b, s1) ← pop s
  let (a, s2) ← pop s1
  let v ← f a b
  let s3 ← push v s2
  .ok (advance 0 s3)

/-- The shape of the one-operand ALU instructions (R120): `a <- Pop(); Push(f a); next <- p + 1`. -/
def unaryOp (f : Int → Int) (s : State) : Except FaultKind State := do
  let (a, s1) ← pop s
  let s2 ← push (f a) s1
  .ok (advance 0 s2)

/-- The shape of JMPT and JMPF (R152, R153): `target <- Pop(); cond <- Pop()`, both popped whether or not the jump is
taken. -/
def condJump (taken : Int → Bool) (s : State) : Except FaultKind State := do
  let (target, s1) ← pop s
  let (cond, s2) ← pop s1
  .ok (if taken cond then s2.setPc target else advance 0 s2)

/-- LOAD's index over the unbounded integers: the caller's arguments below, the locals above (R142). -/
def loadIndex (fp a : Int) : Int :=
  if a < 0 then fp + a - 2 else fp + a + 1

/-- STORE's index over the unbounded integers: one formula, the offset subtracted (R143, R146, C1). -/
def storeIndex (fp offset : Int) : Int := fp - offset + 1

end Sys2Proof.Machine
end

