-- ==== Sys2Proof/Machine/Arith.lean ====
section
/-! DEFINITION. ADD, SUB, MUL, DIV, MOD and NEG (R121 to R125, R134). -/

namespace Sys2Proof.Machine

/-- ADD (R121). -/
def execAdd (s : State) : Host.Outcome State Fault Refusal :=
  finish s (binaryOp (fun a b => .ok (aluAdd s.params.width a b)) s)

/-- SUB (R122): the first-pushed operand is the minuend. -/
def execSub (s : State) : Host.Outcome State Fault Refusal :=
  finish s (binaryOp (fun a b => .ok (aluSub s.params.width a b)) s)

/-- MUL (R123). -/
def execMul (s : State) : Host.Outcome State Fault Refusal :=
  finish s (binaryOp (fun a b => .ok (aluMul s.params.width a b)) s)

/-- DIV (R124): a zero divisor raises `ArithmeticFault` after both pops. -/
def execDiv (s : State) : Host.Outcome State Fault Refusal :=
  finish s (binaryOp (fun a b => if b = 0 then .error .arithmeticFault else .ok (aluDiv s.params.width a b)) s)

/-- MOD (R125): a zero divisor raises `ArithmeticFault` after both pops. -/
def execMod (s : State) : Host.Outcome State Fault Refusal :=
  finish s (binaryOp (fun a b => if b = 0 then .error .arithmeticFault else .ok (aluMod a b)) s)

/-- NEG (R134). -/
def execNeg (s : State) : Host.Outcome State Fault Refusal :=
  finish s (unaryOp (aluNeg s.params.width) s)

end Sys2Proof.Machine
end

