-- ==== Sys2Proof/Machine/Flags.lean ====
section
/-! DEFINITION. Truth values. The unit has no flags and no condition codes (R28): a comparison delivers its outcome as a
cell, 1 or 0, and a conditional jump tests a popped cell (R137). -/

namespace Sys2Proof.Machine

/-- The cell 1 or 0 that a comparison, AND or OR pushes (R137). -/
def truthCell (b : Bool) : Int := if b then 1 else 0

/-- Exactly the cell 1 is true, for AND, OR, NOT and JMPT (R137). -/
def cellIsTrue (c : Int) : Bool := decide (c = 1)

/-- Exactly the cell 0 is false, for NOT and JMPF (R137). -/
def cellIsFalse (c : Int) : Bool := decide (c = 0)

/-- LT: signed (R126, R138). -/
def cmpLt (a b : Int) : Int := truthCell (decide (a < b))

/-- GT: signed (R127, R138). -/
def cmpGt (a b : Int) : Int := truthCell (decide (a > b))

/-- LEQ: signed (R128, R138). -/
def cmpLeq (a b : Int) : Int := truthCell (decide (a ≤ b))

/-- GEQ: signed (R129, R138). -/
def cmpGeq (a b : Int) : Int := truthCell (decide (a ≥ b))

/-- EQ: equality of the two cells, which is equality of all their bits (R130). -/
def cmpEq (a b : Int) : Int := truthCell (decide (a = b))

/-- AND of truth values: 1 iff both are exactly 1 (R131; 0 otherwise is the spec's own choice D4). -/
def logicAnd (a b : Int) : Int := truthCell (cellIsTrue a && cellIsTrue b)

/-- OR of truth values: 1 iff one is exactly 1 (R132; 0 otherwise is the spec's own choice D4). -/
def logicOr (a b : Int) : Int := truthCell (cellIsTrue a || cellIsTrue b)

/-- NOT: 1 becomes 0, 0 becomes 1, any other cell stays (R133). -/
def logicNot (a : Int) : Int := if cellIsTrue a then 0 else if cellIsFalse a then 1 else a

end Sys2Proof.Machine
end

