-- ==== Sys2Proof/Machine/Control.lean ====
section
/-! DEFINITION. JMP, JMPT, JMPF, CALL and RET (R150 to R158). A transfer writes the target to pc without a check (R150);
the value `target - 1` of the source's loop never exists here (R113). -/

namespace Sys2Proof.Machine

/-- JMP (R151): the target is popped. -/
def execJmp (s : State) : Host.Outcome State Fault Refusal :=
  finish s (do
    let (target, s1) ← pop s
    .ok (s1.setPc target))

/-- JMPT (R152): taken only when the condition is exactly 1. -/
def execJmpt (s : State) : Host.Outcome State Fault Refusal :=
  finish s (condJump cellIsTrue s)

/-- JMPF (R153): taken only when the condition is exactly 0. -/
def execJmpf (s : State) : Host.Outcome State Fault Refusal :=
  finish s (condJump cellIsFalse s)

/-- CALL (R155): pushes the argument count, the return address cell `p + 3` (C2) and the caller's fp, points fp at the
last, and reserves the locals without clearing them. -/
def execCall (target argcount localcount : Int) (s : State) : Host.Outcome State Fault Refusal :=
  finish s (do
    let s1 ← push argcount s
    let s2 ← push (s.pc + 3) s1
    let s3 ← push s.fp s2
    let s4 := s3.setFp s3.sp
    let s5 ← setSp (s4.sp + localcount) s4
    .ok (s5.setPc target))

/-- RET (R156): pops the return value, discards the frame, restores fp, drops the arguments, pushes the return value and
continues at the popped return address cell plus one. -/
def execRet (s : State) : Host.Outcome State Fault Refusal :=
  finish s (do
    let (retval, s1) ← pop s
    let s2 ← setSp s1.fp s1
    let (callerFp, s3) ← pop s2
    let s4 := s3.setFp callerFp
    let (ra, s5) ← pop s4
    let (argcount, s6) ← pop s5
    let s7 ← setSp (s6.sp - argcount) s6
    let s8 ← push retval s7
    .ok (s8.setPc (wrap s.params.width (ra + 1))))

end Sys2Proof.Machine
end

