-- ==== Sys2Proof/Machine/Logic.lean ====
section
/-! DEFINITION. LT, GT, LEQ, GEQ, EQ (R126 to R130) and AND, OR, NOT (R131 to R133). -/

namespace Sys2Proof.Machine

/-- LT (R126). -/
def execLt (s : State) : Host.Outcome State Fault Refusal :=
  finish s (binaryOp (fun a b => .ok (cmpLt a b)) s)

/-- GT (R127). -/
def execGt (s : State) : Host.Outcome State Fault Refusal :=
  finish s (binaryOp (fun a b => .ok (cmpGt a b)) s)

/-- LEQ (R128). -/
def execLeq (s : State) : Host.Outcome State Fault Refusal :=
  finish s (binaryOp (fun a b => .ok (cmpLeq a b)) s)

/-- GEQ (R129). -/
def execGeq (s : State) : Host.Outcome State Fault Refusal :=
  finish s (binaryOp (fun a b => .ok (cmpGeq a b)) s)

/-- EQ (R130). -/
def execEq (s : State) : Host.Outcome State Fault Refusal :=
  finish s (binaryOp (fun a b => .ok (cmpEq a b)) s)

/-- AND (R131): both operands are always popped. -/
def execAnd (s : State) : Host.Outcome State Fault Refusal :=
  finish s (binaryOp (fun a b => .ok (logicAnd a b)) s)

/-- OR (R132): both operands are always popped. -/
def execOr (s : State) : Host.Outcome State Fault Refusal :=
  finish s (binaryOp (fun a b => .ok (logicOr a b)) s)

/-- NOT (R133). -/
def execNot (s : State) : Host.Outcome State Fault Refusal :=
  finish s (unaryOp logicNot s)

end Sys2Proof.Machine
end

