-- ==== Sys2Proof/Machine/StackMem.lean ====
section
/-! DEFINITION. CONST, POP, LOAD, STORE, GLOAD and GSTORE (R140 to R146). -/

namespace Sys2Proof.Machine

/-- CONST (R140): `Push(literal); next <- p + 2`. -/
def execConst (literal : Int) (s : State) : Host.Outcome State Fault Refusal :=
  finish s (do
    let s1 ← push literal s
    .ok (advance 1 s1))

/-- POP (R141): the value is discarded. -/
def execPop (s : State) : Host.Outcome State Fault Refusal :=
  finish s (do
    let (_, s1) ← pop s
    .ok (advance 0 s1))

/-- LOAD (R142): the index is popped; the loaded cell replaces it. -/
def execLoad (s : State) : Host.Outcome State Fault Refusal :=
  finish s (do
    let (a, s1) ← pop s
    let e ← stackAddr (loadIndex s1.fp a) s1
    let s2 ← push (stackCell s1 e) s1
    .ok (advance 0 s2))

/-- STORE (R143): the offset is inline and subtracted. -/
def execStore (offset : Int) (s : State) : Host.Outcome State Fault Refusal :=
  finish s (do
    let (value, s1) ← pop s
    let e ← stackAddr (storeIndex s1.fp offset) s1
    .ok (advance 1 (stackWrite s1 e value)))

/-- GLOAD (R144): the address is popped and absolute. -/
def execGload (s : State) : Host.Outcome State Fault Refusal :=
  finish s (do
    let (addr, s1) ← pop s
    let e ← globalAddr addr s1
    let s2 ← push (globalCell s1 e) s1
    .ok (advance 0 s2))

/-- GSTORE (R145): the address is inline and absolute. -/
def execGstore (addr : Int) (s : State) : Host.Outcome State Fault Refusal :=
  finish s (do
    let (value, s1) ← pop s
    let e ← globalAddr addr s1
    .ok (advance 1 (globalWrite s1 e value)))

end Sys2Proof.Machine
end

