-- ==== Sys2Proof/Machine/System.lean ====
section
/-! DEFINITION. PRINT and HALT (R160, R161), the whole of the unit's dealings with its environment (R162). -/

namespace Sys2Proof.Machine

/-- PRINT (R160): `value <- Pop(); Emit(value); next <- p + 1`. -/
def execPrint (s : State) : Host.Outcome State Fault Refusal :=
  finish s (do
    let (value, s1) ← pop s
    .ok (advance 0 (emit value s1)))

/-- HALT (R161): `run <- HALTED; next <- p + 1`. It cannot fault. -/
def execHalt (s : State) : Host.Outcome State Fault Refusal :=
  finish s (.ok (advance 0 (s.setRun .halted)))

end Sys2Proof.Machine
end

