-- ==== Sys2Proof/Machine/Dispatch.lean ====
section
/-! DEFINITION. The dispatch: one arm per instruction, each a direct call of its meaning (R102). -/

namespace Sys2Proof.Machine

def exec (i : Instr) (s : State) : Host.Outcome State Fault Refusal :=
  match i with
  | .add => Sys2Proof.Machine.execAdd s
  | .sub => Sys2Proof.Machine.execSub s
  | .mul => Sys2Proof.Machine.execMul s
  | .div => Sys2Proof.Machine.execDiv s
  | .mod => Sys2Proof.Machine.execMod s
  | .lt => Sys2Proof.Machine.execLt s
  | .gt => Sys2Proof.Machine.execGt s
  | .leq => Sys2Proof.Machine.execLeq s
  | .geq => Sys2Proof.Machine.execGeq s
  | .eq => Sys2Proof.Machine.execEq s
  | .and => Sys2Proof.Machine.execAnd s
  | .or => Sys2Proof.Machine.execOr s
  | .not => Sys2Proof.Machine.execNot s
  | .neg => Sys2Proof.Machine.execNeg s
  | .jmp => Sys2Proof.Machine.execJmp s
  | .jmpt => Sys2Proof.Machine.execJmpt s
  | .jmpf => Sys2Proof.Machine.execJmpf s
  | .const literal => Sys2Proof.Machine.execConst literal s
  | .load => Sys2Proof.Machine.execLoad s
  | .store offset => Sys2Proof.Machine.execStore offset s
  | .gload => Sys2Proof.Machine.execGload s
  | .gstore addr => Sys2Proof.Machine.execGstore addr s
  | .print => Sys2Proof.Machine.execPrint s
  | .pop => Sys2Proof.Machine.execPop s
  | .halt => Sys2Proof.Machine.execHalt s
  | .call target argcount localcount => Sys2Proof.Machine.execCall target argcount localcount s
  | .ret => Sys2Proof.Machine.execRet s

end Sys2Proof.Machine
end

