-- ==== Sys2Proof/Machine/Fetch.lean ====
section
/-! DEFINITION. Fetching and decoding the instruction at pc (R100, R102), and laying one out where the next step fetches
it. -/

namespace Sys2Proof.Machine

/-- The fault of a run of cells that is no instruction (R102, R103). -/
def decodeFault : DecodeError → FaultKind
  | .noOpcodeCell => .outOfBoundsMemoryAccess
  | .unknownOpcode _ => .unknownOpcode
  | .missingOperand _ => .outOfBoundsMemoryAccess

/-- The instruction the step at `s` performs, or the fault of its fetch or decoding (R100): the opcode cell, then the
inline operands, before any stack access (R111). -/
def fetchInstr (s : State) : Except FaultKind Instr :=
  if s.pc < 0 then .error .outOfBoundsMemoryAccess
  else
    match decode s.params.opc (s.prog.drop s.pc.toNat) with
    | .ok (i, _) => .ok i
    | .error e => .error (decodeFault e)

/-- The index at which `placeCells` lays an instruction out: pc where it can be fetched there with four cells inside the
bounds of R6, 0 otherwise. -/
def placeIndex (s : State) : Nat :=
  if 0 ≤ s.pc ∧ s.pc + 4 ≤ ((2 ^ (s.params.width - 1) : Nat) : Int) - 4 then s.pc.toNat else 0

/-- A stream with `cells` stored at index `p`, the gap before them, if any, filled with zero cells. -/
def storeCells (prog : List Int) (p : Nat) (cells : List Int) : List Int :=
  prog.take p ++ List.replicate (p - prog.length) 0 ++ cells ++ prog.drop (p + cells.length)

/-- The load of a program by the host, for one instruction: `cells` stand where the next step fetches. -/
def placeCells (s : State) (cells : List Int) : State :=
  { s with
    pc := (placeIndex s : Int)
    run := .running
    prog := storeCells s.prog (placeIndex s) cells }

end Sys2Proof.Machine
end

