-- ==== Sys2Proof/Machine/Step.lean ====
section
/-! DEFINITION. The step (R100) and the placing of one instruction for it. -/

namespace Sys2Proof.Machine

/-- One step of the unit (R100): while `RUNNING`, the instruction at pc, or the fault of its fetch or decoding. Outside
`RUNNING` nothing changes, for ever (R101; notes/assumptions/7.md). A unit outside the bounds of R6 is refused
(U16; notes/assumptions/9.md). -/
def step (s : State) : Host.Outcome State Fault Refusal :=
  match s.run with
  | .halted => .next s
  | .faulted => .next s
  | .running =>
    match covered s with
    | false => .refused .parametersOutsideBounds
    | true =>
      match fetchInstr s with
      | .error k => .next (takeFault k s)
      | .ok i => exec i s

/-- `s` with the instruction whose bits are `w` stored where `step` fetches its next instruction
(notes/assumptions/10.md). -/
def State.withFetchWord (s : State) (nbits w : Nat) : State := placeCells s (tableCells s.params.width nbits w)

end Sys2Proof.Machine
end

