-- ==== Sys2Proof/Machine/Ports.lean ====
section
/-! DEFINITION. The unit's ports, as operations and observations between steps: reset (R40, R200, R210), the
instruction-stream port (R41), the output port (R42), the status port with its numeric codes (R34, R43), state read-back
(R44) and the optional observation port (R193). No step depends on them (R192). -/

namespace Sys2Proof.Machine

/-- Asserting `rst` in any run state, with the program `prog` on the instruction-stream port when it is released
(R200, R210). The parameters stay; `S` and `G` hold unspecified cells again, not the earlier run's (R201). -/
def assertReset (prog : List Int) (s : State) : State := State.atReset s.params prog (s.resets + 1)

/-- The 2-bit code of the run state (R34). -/
def runCode : RunState → BitVec 2
  | .running => 0
  | .halted => 1
  | .faulted => 2

/-- The 3-bit code of `fault_kind` (R34, R170). -/
def faultKindCode : Option FaultKind → BitVec 3
  | none => 0
  | some .stackOverflow => 1
  | some .stackUnderflow => 2
  | some .outOfBoundsMemoryAccess => 3
  | some .arithmeticFault => 4
  | some .unknownOpcode => 5

/-- The fields of the status port, in their widths (R34). -/
structure Status where
  run : BitVec 2
  faultKind : BitVec 3
  faultOpcodeValid : BitVec 1
  faultOpcode : Int
  faultPc : Int
  faultSp : Int
  faultFp : Int
  deriving DecidableEq, Repr

/-- What the status port shows (R34, R43): while `run` is not `FAULTED` the six fault fields read as their reset
values. -/
def statusPort (s : State) : Status :=
  let r := if s.run = .faulted then s.faultRec else FaultRecord.clear
  { run := runCode s.run
    faultKind := faultKindCode r.kind
    faultOpcodeValid := if r.opcodeValid then 1 else 0
    faultOpcode := r.opcode
    faultPc := r.pc
    faultSp := r.sp
    faultFp := r.fp }

/-- The indices the unit presents on `pm_addr` in the step taken at `s`, in order (R41): the opcode cell, then the inline
cells, and never one outside the stream, where the fetch has faulted. -/
def pmAddrs (s : State) : List Int :=
  match s.run, fetch s s.pc with
  | .running, .ok c =>
    match opcodeOf? s.params.opc c with
    | none => [s.pc]
    | some o =>
      ((List.range (1 + inlineCount o)).map (fun (j : Nat) => s.pc + (j : Int))).takeWhile
        (fun i => decide (i < (s.prog.length : Int)))
  | _, _ => []

/-- What the output port presents in the step from `before` to `after` (R42): `some v` is `out_valid = 1` with
`out_data = v`, `none` is `out_valid = 0`. -/
def outPort (before after : State) : Option Int := (after.out.drop before.out.length).head?

/-- The state the host can read back once the run has ended (R44). -/
structure ReadBack where
  pc : Int
  sp : Int
  fp : Int
  stack : List Int
  globals : List Int
  deriving DecidableEq, Repr

/-- Read-back (R44): nothing while `RUNNING`. -/
def readBack (s : State) : Option ReadBack :=
  if s.run = .running then none
  else some
    { pc := s.pc, sp := s.sp, fp := s.fp
      stack := (List.range s.params.stackCap).map (stackCell s)
      globals := (List.range s.params.globalSize).map (globalCell s) }

/-- The observation port before a dispatch: the mnemonic, if the opcode cell decodes to one (R193). Dispatch depends on
the opcode cell alone (R102), so the mnemonic is reported also when an inline cell turns out to be missing (R103). -/
def observeBefore (s : State) : Option String :=
  match s.run, fetch s s.pc with
  | .running, .ok c => (opcodeOf? s.params.opc c).map Opcode.mnemonic
  | _, _ => none

/-- What the observation port reports after a step (R193). -/
structure Observation where
  pc : Int
  sp : Int
  fp : Int
  inUse : List Int
  deriving DecidableEq, Repr

/-- The observation port after a step: the architectural pc, sp, fp and the stack in use, `S[0 .. sp]` (R193; the
spec's own choice D21). -/
def observeAfter (s : State) : Observation :=
  { pc := s.pc, sp := s.sp, fp := s.fp
    inUse := (List.range (s.sp + 1).toNat).map (stackCell s) }

end Sys2Proof.Machine
end

