-- ==== Sys2Proof/Safety.lean ====
section
/-! DEFINITION. What the statements say: the invariant of the unit, what an instruction that completes leaves, what a fault
leaves, and the fault table of R176, each written from the rules and not from the meanings. -/

namespace Sys2Proof.Machine

/-- The top of the stack, `S[sp]` (R23). -/
def topCell (s : State) : Int := stackCell s s.sp.toNat

/-- The cell below the top, `S[sp - 1]` (R139). -/
def secondCell (s : State) : Int := stackCell s (s.sp.toNat - 1)

/-- pc is the index of a cell of the instruction stream (R58). -/
def PcInRange (s : State) : Prop := 0 ≤ s.pc ∧ s.pc < s.prog.length

/-- The fault record of R181 for a fault of kind `k` in the step taken at `s`. -/
structure FaultRecordFor (k : FaultKind) (s : State) (r : FaultRecord) : Prop where
  kind : r.kind = some k
  pc : r.pc = s.pc
  sp : r.sp = s.sp
  fp : r.fp = s.fp
  opcode : PcInRange s → r.opcodeValid = true ∧ s.prog[s.pc.toNat]? = some r.opcode
  noOpcode : ¬ PcInRange s → r.opcodeValid = false ∧ r.opcode = 0

/-- `t` is `s` after a fault of kind `k` (R180): `run` is `FAULTED`, the record is that of R181, nothing else changed. -/
structure FaultedFrom (k : FaultKind) (s t : State) : Prop where
  run : t.run = .faulted
  record : FaultRecordFor k s t.faultRec
  pc : t.pc = s.pc
  sp : t.sp = s.sp
  fp : t.fp = s.fp
  out : t.out = s.out
  prog : t.prog = s.prog
  stack : t.stack = s.stack
  globals : t.globals = s.globals
  params : t.params = s.params
  resets : t.resets = s.resets

/-- The invariant of the unit, at its width. Every step keeps it and every reset state inside R6 has it. -/
structure State.Inv (s : State) : Prop where
  /-- the parameters and the program obey R6 -/
  covered : Sys2Proof.Machine.covered s = true
  /-- pc holds a cell (R7, R20) -/
  pcFits : cellFits s.params.width s.pc = true
  /-- fp holds a cell (R7, R20) -/
  fpFits : cellFits s.params.width s.fp = true
  /-- `-1 <= sp` (R23) -/
  spLow : -1 ≤ s.sp
  /-- `sp <= STACK_CAP - 1` (R23) -/
  spHigh : s.sp ≤ (s.params.stackCap : Int) - 1
  /-- the stack is in canonical form -/
  stackWf : s.stack.wf = true
  /-- no stack cell outside `0 .. STACK_CAP - 1` was ever written (R51) -/
  stackWithin : s.stack.within s.params.stackCap = true
  /-- every stack cell that was written holds a cell (R7) -/
  stackFits : s.stack.fits s.params.width = true
  /-- global memory is in canonical form -/
  globalsWf : s.globals.wf = true
  /-- no global cell outside `0 .. GLOBAL_SIZE - 1` was ever written (R51) -/
  globalsWithin : s.globals.within s.params.globalSize = true
  /-- every global cell that was written holds a cell (R7) -/
  globalsFits : s.globals.fits s.params.width = true
  /-- every value emitted is a cell (R27) -/
  outFits : s.out.all (cellFits s.params.width) = true
  /-- while `run` is not `FAULTED` the fault fields read as their reset values (R34) -/
  recordClear : s.run ≠ .faulted → s.faultRec = FaultRecord.clear
  /-- while `run` is `FAULTED` the record describes the state, which the fault left as it was (R32, R181) -/
  recordTaken : s.run = .faulted → ∃ k, FaultRecordFor k s s.faultRec

/-- Everything but `S`, `G` and `OUT` after an instruction that completes at `s` and goes on running: the three registers
as given, the run state, the fault record, the program and the parameters unchanged. -/
structure Completed (s t : State) (pc sp fp : Int) : Prop where
  pc : t.pc = pc
  sp : t.sp = sp
  fp : t.fp = fp
  run : t.run = s.run
  faultRec : t.faultRec = s.faultRec
  prog : t.prog = s.prog
  params : t.params = s.params
  resets : t.resets = s.resets

/-- Every stack cell reads as before. -/
def SameStack (s t : State) : Prop := ∀ j, stackCell t j = stackCell s j

/-- Every global cell reads as before. -/
def SameGlobals (s t : State) : Prop := ∀ j, globalCell t j = globalCell s j

/-- Stack cell `k` reads `v`, every other stack cell as before. -/
def StackSetAt (s t : State) (k : Nat) (v : Int) : Prop :=
  stackCell t k = v ∧ ∀ j, j ≠ k → stackCell t j = stackCell s j

/-- Global cell `k` reads `v`, every other global cell as before. -/
def GlobalSetAt (s t : State) (k : Nat) (v : Int) : Prop :=
  globalCell t k = v ∧ ∀ j, j ≠ k → globalCell t j = globalCell s j

/-- What every instruction with two popped operands and one pushed result leaves (R120): pc at `p + 1`, sp lower by one,
the result in the cell that held `a`, everything else as before. -/
def BinaryResult (s t : State) (v : Int) : Prop :=
  Completed s t (s.pc + 1) (s.sp - 1) s.fp ∧ t.out = s.out ∧ StackSetAt s t (s.sp.toNat - 1) v ∧ SameGlobals s t

/-- What every instruction with one popped operand and one pushed result leaves (R120): pc at `p + 1`, sp as before, the
result in the cell that held the operand, everything else as before. -/
def UnaryResult (s t : State) (v : Int) : Prop :=
  Completed s t (s.pc + 1) s.sp s.fp ∧ t.out = s.out ∧ StackSetAt s t s.sp.toNat v ∧ SameGlobals s t

/-- Instruction `i` at `s` raises a fault of kind `k`: it answers a state in `FAULTED` whose record names `k`. A statement
that there is such an `s` asks that `s` is `RUNNING`, since what completes keeps the run state and the record. -/
def Raises (i : Instr) (s : State) (k : FaultKind) : Prop :=
  ∃ t, exec i s = .next t ∧ t.run = .faulted ∧ t.faultRec.kind = some k

/-- The step at `s` raises a fault of kind `k`. -/
def StepRaises (s : State) (k : FaultKind) : Prop :=
  ∃ t, step s = .next t ∧ t.run = .faulted ∧ t.faultRec.kind = some k

/-- The encoding of `i` is the opcode cell of `o` and then `operands`, under every opcode map (R81), and the opcode's
default value is `n` (R85). -/
def EncodedAs (i : Instr) (o : Opcode) (operands : List Int) (n : Nat) : Prop :=
  (∀ m : OpcMap, encode m i = m.code o :: operands) ∧ Config.params.opc.code o = (n : Int)

/-- A running unit inside R6 whose pc is at an opcode cell of `o` that has fewer inline cells behind it than `o` needs. -/
structure OperandCellMissing (o : Opcode) (s : State) : Prop where
  running : s.run = .running
  covered : Sys2Proof.Machine.covered s = true
  pcLow : 0 ≤ s.pc
  opcode : s.prog[s.pc.toNat]? = some (s.params.opc.code o)
  short : s.prog.length ≤ s.pc.toNat + inlineCount o

/-- The step of R100 up to the end of the inline fetches, written cell by cell with `Fetch` (R103): the opcode cell, its
mnemonic, then each inline cell in stream order. -/
def fetchCellByCell (s : State) : Except FaultKind (Opcode × List Int) := do
  let op ← fetch s s.pc
  match opcodeOf? s.params.opc op with
  | none => .error .unknownOpcode
  | some o =>
    let imms ← (List.range (inlineCount o)).mapM (fun (j : Nat) => fetch s (s.pc + 1 + (j : Int)))
    .ok (o, imms)

/-- Two popped operands: the fault that fewer of them raise (R176). -/
def needTwo (s : State) : Option FaultKind := if s.sp < 1 then some .stackUnderflow else none

/-- One popped operand: the fault that an empty stack raises (R176). -/
def needOne (s : State) : Option FaultKind := if s.sp < 0 then some .stackUnderflow else none

/-- DIV and MOD's row of R176. -/
def divisionRow (s : State) : Option FaultKind :=
  if s.sp < 1 then some .stackUnderflow
  else if topCell s = 0 then some .arithmeticFault
  else none

/-- One popped operand and then an address `e` that must lie in `0 .. size - 1` (R176). -/
def addressRow (s : State) (e : Int) (size : Nat) : Option FaultKind :=
  if s.sp < 0 then some .stackUnderflow
  else if e < 0 ∨ (size : Int) ≤ e then some .outOfBoundsMemoryAccess
  else none

/-- CALL's row of R176. -/
def callRow (s : State) (localcount : Int) : Option FaultKind :=
  if s.sp + 3 > (s.params.stackCap : Int) - 1 then some .stackOverflow
  else if s.sp + 3 + localcount > (s.params.stackCap : Int) - 1 then some .stackOverflow
  else if s.sp + 3 + localcount < -1 then some .stackUnderflow
  else none

/-- RET's row of R176, with `A = S[fp - 2]` and `t = fp - 3 - A` (R156). -/
def retRow (s : State) : Option FaultKind :=
  let t := s.fp - 3 - stackCell s (s.fp.toNat - 2)
  if s.sp < 0 then some .stackUnderflow
  else if s.fp > (s.params.stackCap : Int) - 1 then some .stackOverflow
  else if s.fp < 2 then some .stackUnderflow
  else if t > (s.params.stackCap : Int) - 2 then some .stackOverflow
  else if t < -1 then some .stackUnderflow
  else none

/-- The table of R176: the fault that instruction `i`, once fetched with its inline cells, takes at `s`, if any. -/
def faultTable (i : Instr) (s : State) : Option FaultKind :=
  match i with
  | .add => needTwo s
  | .sub => needTwo s
  | .mul => needTwo s
  | .div => divisionRow s
  | .mod => divisionRow s
  | .lt => needTwo s
  | .gt => needTwo s
  | .leq => needTwo s
  | .geq => needTwo s
  | .eq => needTwo s
  | .and => needTwo s
  | .or => needTwo s
  | .not => needOne s
  | .neg => needOne s
  | .jmp => needOne s
  | .jmpt => needTwo s
  | .jmpf => needTwo s
  | .const _ => if s.sp = (s.params.stackCap : Int) - 1 then some .stackOverflow else none
  | .load =>
    addressRow s
      (if topCell s < 0 then s.fp + topCell s - 2 else s.fp + topCell s + 1)
      s.params.stackCap
  | .store offset => addressRow s (s.fp - offset + 1) s.params.stackCap
  | .gload => addressRow s (topCell s) s.params.globalSize
  | .gstore addr => addressRow s addr s.params.globalSize
  | .print => needOne s
  | .pop => needOne s
  | .halt => none
  | .call _ _ localcount => callRow s localcount
  | .ret => retRow s

/-- The stack cells an instruction that completes at `s` writes: the results of R120, the pushes and the STORE of R140 to
R144, the three cells of R154, and the return value of R156. -/
def stackCellsWritten (i : Instr) (s : State) : List Int :=
  match i with
  | .add => [s.sp - 1]
  | .sub => [s.sp - 1]
  | .mul => [s.sp - 1]
  | .div => [s.sp - 1]
  | .mod => [s.sp - 1]
  | .lt => [s.sp - 1]
  | .gt => [s.sp - 1]
  | .leq => [s.sp - 1]
  | .geq => [s.sp - 1]
  | .eq => [s.sp - 1]
  | .and => [s.sp - 1]
  | .or => [s.sp - 1]
  | .not => [s.sp]
  | .neg => [s.sp]
  | .jmp => []
  | .jmpt => []
  | .jmpf => []
  | .const _ => [s.sp + 1]
  | .load => [s.sp]
  | .store offset => [s.fp - offset + 1]
  | .gload => [s.sp]
  | .gstore _ => []
  | .print => []
  | .pop => []
  | .halt => []
  | .call _ _ _ => [s.sp + 1, s.sp + 2, s.sp + 3]
  | .ret => [s.fp - 2 - stackCell s (s.fp.toNat - 2)]

/-- The step at `s` performs GSTORE with address `k`. -/
def PerformsGstore (s : State) (k : Int) : Prop := s.run = .running ∧ fetchInstr s = .ok (.gstore k)

/-- A safe run of `n` steps from `s`: no step of it was refused and it did not end in `FAULTED` (R112). -/
def SafeRun (n : Nat) (s : State) : Prop := ∃ t, core.run n s = .next t ∧ t.run ≠ .faulted

end Sys2Proof.Machine
end

