-- ==== Sys2Proof/Certificates/Slice0/Obligations.lean ====
section
/-! DEFINITION. The statements for the provers. Each docstring says what the statement says; which rule it formalises, or
which of the spec's own choices it rests on, stands in OBLIGATIONS.json. -/

open Sys2Proof Sys2Proof.Machine

/-- Right after reset pc is 0, sp is -1, fp is 0, run is RUNNING, the six fields of the fault record are clear, OUT is
empty, no stack or global cell has been written and each reads as some cell of 32 bits (which one is a free value,
D8, log 4), and no program is supplied yet (log 10). The parameters, which stand in the state (log 2), are the
defaults: W 32, STACK_CAP 100, GLOBAL_SIZE 300, OPC the values 1 to 27 in the order of the spec's opcode list,
PC_RESET 0, FP_RESET 0. The values of W (D2), of OPC (D1), of pc and fp (D6, D7, log 3), of run (D19) and of the
record (D14) are the spec's own choices. Rests on 10_state.md section 7 (reset values); 00_scope.md section 3
(parameters); 92_eei_decisions.md D1, D2, D6, D7, D8, D14, D19; notes/assumptions/2.md; notes/assumptions/4.md;
notes/assumptions/10.md. -/
def Obligations.ResetLeavesTheSpecState : Prop :=
  State.reset.pc = 0 ∧ State.reset.sp = -1 ∧ State.reset.fp = 0 ∧ State.reset.run = .running ∧
  State.reset.faultRec =
    { kind := none, opcodeValid := false, opcode := 0, pc := 0, sp := 0, fp := 0 } ∧
  State.reset.out = [] ∧ State.reset.prog = [] ∧
  (∀ i, State.reset.stack.cellAt i = none ∧ cellFits 32 (stackCell State.reset i) = true) ∧
  (∀ i, State.reset.globals.cellAt i = none ∧ cellFits 32 (globalCell State.reset i) = true) ∧
  State.reset.params.width = 32 ∧ State.reset.params.stackCap = 100 ∧ State.reset.params.globalSize = 300 ∧
  Opcode.all.map State.reset.params.opc.code =
    [1, 2, 3, 4, 5, 6, 7, 8, 9, 10, 11, 12, 13, 14, 15, 16, 17, 18, 19, 20, 21, 22, 23, 24, 25, 26, 27] ∧
  State.reset.params.pcReset = 0 ∧ State.reset.params.fpReset = 0

/-- For all parameters (of every width) and programs of cells inside the bounds and any number of earlier resets, the
reset state satisfies the invariant; State.reset satisfies it. Rests on 10_state.md section 7 (reset values);
00_scope.md section 3. -/
def Obligations.ResetStatesHaveTheInvariant : Prop :=
  (∀ (p : Params) (prog : List Int) (n : Nat), p.wf = true → progLenOk p.width prog = true →
    progCellsOk p.width prog = true → (State.atReset p prog n).Inv) ∧ State.reset.Inv

/-- From any state, asserting reset with a program gives pc = PC_RESET, sp = -1, fp = FP_RESET, run RUNNING, a clear
record, empty OUT, the supplied program, the same parameters, and no stack or global cell written (log 4, D6, D7,
D8, D19). Rests on 70_reset_and_hazards.md section 1 (reset); 92_eei_decisions.md D6, D7, D8, D19. -/
def Obligations.AssertResetStartsANewRun : Prop :=
  ∀ (s : State) (prog : List Int),
    (assertReset prog s).pc = s.params.pcReset ∧ (assertReset prog s).sp = -1 ∧
    (assertReset prog s).fp = s.params.fpReset ∧ (assertReset prog s).run = .running ∧
    (assertReset prog s).faultRec = FaultRecord.clear ∧ (assertReset prog s).out = [] ∧
    (assertReset prog s).prog = prog ∧ (assertReset prog s).params = s.params ∧
    (∀ i, (assertReset prog s).stack.cellAt i = none) ∧ (∀ i, (assertReset prog s).globals.cellAt i = none)

/-- The three run states have the codes 0, 1, 2 and the five fault kinds the codes 1 to 5 in the order of the spec's
list; while run is not FAULTED the six fault fields read 0; while it is FAULTED they read the record (codes: the
spec's own choice D14). Rests on 10_state.md section 6 (status fields); 92_eei_decisions.md D14. -/
def Obligations.StatusPortShowsCodes : Prop :=
  (runCode .running = 0 ∧ runCode .halted = 1 ∧ runCode .faulted = 2) ∧
  (faultKindCode none = 0 ∧ faultKindCode (some .stackOverflow) = 1 ∧ faultKindCode (some .stackUnderflow) = 2 ∧
    faultKindCode (some .outOfBoundsMemoryAccess) = 3 ∧ faultKindCode (some .arithmeticFault) = 4 ∧
    faultKindCode (some .unknownOpcode) = 5) ∧
  (∀ s : State, s.run ≠ .faulted → statusPort s =
    { run := runCode s.run, faultKind := 0, faultOpcodeValid := 0, faultOpcode := 0, faultPc := 0, faultSp := 0,
      faultFp := 0 }) ∧
  (∀ s : State, s.run = .faulted → statusPort s =
    { run := 2, faultKind := faultKindCode s.faultRec.kind,
      faultOpcodeValid := (if s.faultRec.opcodeValid then 1 else 0), faultOpcode := s.faultRec.opcode,
      faultPc := s.faultRec.pc, faultSp := s.faultRec.sp, faultFp := s.faultRec.fp })

/-- While RUNNING the read-back gives nothing. Otherwise it gives pc, sp, fp, all STACK_CAP stack cells and all
GLOBAL_SIZE global cells as they are (port: the spec's own choice D20). Rests on 10_state.md section 8 (ports);
92_eei_decisions.md D20. -/
def Obligations.ReadBackOnlyWhenStopped : Prop :=
  (∀ s : State, s.run = .running → readBack s = none) ∧
  (∀ s : State, s.run ≠ .running → ∃ r, readBack s = some r ∧ r.pc = s.pc ∧ r.sp = s.sp ∧ r.fp = s.fp ∧
    r.stack.length = s.params.stackCap ∧ r.globals.length = s.params.globalSize ∧
    (∀ i, i < s.params.stackCap → r.stack[i]? = some (stackCell s i)) ∧
    (∀ i, i < s.params.globalSize → r.globals[i]? = some (globalCell s i)))

/-- At every width: if the invariant holds (the parameters are in bounds, pc and fp hold cells of the width W, -1 <= sp
<= STACK_CAP - 1, both data memories are canonical, were only written inside their bounds and hold cells of that
width, every value emitted is such a cell, the fault record is clear outside FAULTED and describes the state in
FAULTED) and the step answers a next state, the invariant holds there. Rests on 10_state.md sections 3, 4, 6;
20_memory.md section 3; 60_exceptions.md section 3. -/
def Obligations.EveryStepKeepsTheInvariant : Prop :=
  ∀ s t : State, s.Inv → step s = .next t → t.Inv

/-- For all parameters and programs inside the bounds and every number of steps from reset, the state reached has -1 <=
sp <= STACK_CAP - 1 and the parameters and program it started with. Rests on 10_state.md section 3 (stack pointer). -/
def Obligations.ReachableStackPointerInRange : Prop :=
  ∀ (p : Params) (prog : List Int) (n k : Nat) (t : State), p.wf = true → progLenOk p.width prog = true →
    progCellsOk p.width prog = true → Sys2Proof.core.run k (State.atReset p prog n) = .next t →
    -1 ≤ t.sp ∧ t.sp ≤ (p.stackCap : Int) - 1 ∧ t.params = p ∧ t.prog = prog

/-- If a step answers a next state, the instruction stream, the parameters and the model's own reset count are as
before. Rests on 20_memory.md section 6 (the instruction stream is immutable); 00_scope.md section 3 (parameters). -/
def Obligations.StepNeverChangesTheProgram : Prop :=
  ∀ s t : State, step s = .next t → t.prog = s.prog ∧ t.params = s.params ∧ t.resets = s.resets

/-- If a running unit's step ends in FAULTED, then pc, sp, fp, S, G, OUT, the program and the parameters are as they
were at the instruction's fetch, and the record holds a fault kind, the pc, sp and fp of the fetch, and the opcode
cell when pc was in range (valid 1) or 0 (valid 0). Precise faults and the record's contents are the spec's own
choices D12 and D14. Rests on 60_exceptions.md section 3 (fault entry); 92_eei_decisions.md D12, D14. -/
def Obligations.FaultsArePrecise : Prop :=
  ∀ s t : State, s.run = .running → step s = .next t → t.run = .faulted → ∃ k, FaultedFrom k s t

/-- In every state with the invariant, and for every instruction once it is fetched with its inline cells (the fetch
faults are stated apart): if the table names a fault, the instruction takes that fault, precisely; if it names none,
the instruction completes, and the unit goes on as it was, or is HALTED if the instruction is HALT. The order of the
tests is the spec's own choice D13. Rests on 60_exceptions.md section 1 (faults by instruction); 92_eei_decisions.md
D11, D13, D15. -/
def Obligations.FaultTableDecidesEveryInstruction : Prop :=
  ∀ (i : Instr) (s : State), s.Inv →
    (∀ k, faultTable i s = some k → ∃ t, exec i s = .next t ∧ FaultedFrom k s t) ∧
    (faultTable i s = none → ∃ t, exec i s = .next t ∧ t.faultRec = s.faultRec ∧
      t.run = if i = .halt then .halted else s.run)

/-- For a running unit inside the bounds, the step ends in HALTED if and only if the instruction fetched at pc is HALT.
Rests on 10_state.md section 4 (run state); 44_system.md (HALT). -/
def Obligations.HaltIsTheOnlyCleanEnd : Prop :=
  ∀ s t : State, s.run = .running → step s = .next t → (t.run = .halted ↔ fetchInstr s = .ok .halt)

/-- Each step either leaves OUT unchanged and presents nothing on the output port, or the fetched instruction is PRINT,
OUT grows by the popped cell at its end, and the port presents that cell (port form: D20, D24). Rests on 10_state.md
sections 4 and 8 (OUT, output port); 92_eei_decisions.md D20, D24. -/
def Obligations.OutputGrowsOnlyByPrint : Prop :=
  ∀ s t : State, step s = .next t →
    (t.out = s.out ∧ outPort s t = none) ∨
    (fetchInstr s = .ok .print ∧ t.out = s.out ++ [topCell s] ∧ outPort s t = some (topCell s))

/-- A unit that is HALTED or FAULTED is in the same state after any number of steps: it fetches nothing, changes nothing
and emits nothing. That the model answers such a step with the same state is its own choice, log 7. Rests on
40_fetch_dispatch.md section 1 (no step outside RUNNING); notes/assumptions/7.md. -/
def Obligations.StoppedUnitStaysAsItIs : Prop :=
  ∀ (k : Nat) (s : State), s.run ≠ .running → Sys2Proof.core.run k s = .next s

/-- For every RUNNING unit inside the parameter bounds the step answers a next state, never a model fault or a refusal.
Outside RUNNING the spec says that no step exists; that the model's step answers a next state there too is its own
choice, log 7. Every instruction answers a next state in every state (two outcomes, completion or fault: the spec's
own choice D12, D13). Rests on 40_fetch_dispatch.md section 3 (outcomes of a step); 92_eei_decisions.md D12, D13;
notes/assumptions/7.md. -/
def Obligations.StepIsTotalInsideBounds : Prop :=
  (∀ s : State, covered s = true → ∃ t, step s = .next t) ∧
  (∀ (i : Instr) (s : State), ∃ t, exec i s = .next t)

/-- The spec claims no rule for parameters outside its bounds and says refuse: the model's step is refused there by its
own name (log 9). Rests on 93_implementation_defined.md U16; notes/assumptions/9.md. -/
def Obligations.StepRefusedOutsideBounds : Prop :=
  ∀ s : State, s.run = .running → covered s = false → step s = .refused .parametersOutsideBounds

/-- For every instruction but GLOAD: run it in two states that differ only in global memory, and the two next states
agree in pc, sp, fp, run, fault record, OUT, stack, program and parameters. Rests on 10_state.md section 5 (who
reads and writes what); 20_memory.md section 2. -/
def Obligations.GlobalsSeenOnlyByGload : Prop :=
  ∀ (i : Instr) (s t : State) (g : Memory), i ≠ .gload → exec i s = .next t →
    ∃ u, exec i (s.setGlobals g) = .next u ∧ u.pc = t.pc ∧ u.sp = t.sp ∧ u.fp = t.fp ∧ u.run = t.run ∧
      u.faultRec = t.faultRec ∧ u.out = t.out ∧ u.stack = t.stack ∧ u.prog = t.prog ∧ u.params = t.params

/-- If a unit inside the bounds is RUNNING, pc is not negative and the cells from pc on decode to an instruction i, then
i is well formed (its inline operands are cells of the width W) and the step is exec of i at that state; the meaning
itself writes pc. Rests on 40_fetch_dispatch.md section 1 (the step). -/
def Obligations.StepRunsTheDecodedInstruction : Prop :=
  ∀ (s : State) (i : Instr) (rest : List Int), s.run = .running → covered s = true → 0 ≤ s.pc →
    decode s.params.opc (s.prog.drop s.pc.toNat) = .ok (i, rest) →
    i.wf s.params.width = true ∧ step s = exec i s

/-- In every state, fetching and decoding through the list decoder gives the same instruction, or the same fault kind,
as the spec's step written with Fetch: the opcode cell, its mnemonic, then each inline cell in stream order. Rests
on 40_fetch_dispatch.md sections 1 and 2 (the step, Fetch); 92_eei_decisions.md D9, D10. -/
def Obligations.FetchReadsCellByCell : Prop :=
  ∀ s : State,
    (∀ i, fetchInstr s = .ok i → fetchCellByCell s = .ok (i.opcode, i.operands)) ∧
    (∀ k, fetchInstr s = .error k → fetchCellByCell s = .error k)

/-- Two states with the same pc, instruction stream and parameters decode to the same instruction or the same fault,
whatever their sp, fp, stack, globals and history. Rests on 40_fetch_dispatch.md section 1 (decode and dispatch). -/
def Obligations.DispatchDependsOnlyOnTheStream : Prop :=
  ∀ s t : State, s.pc = t.pc → s.prog = t.prog → s.params = t.params → fetchInstr s = fetchInstr t

/-- If pc is negative or not below PROG_LEN, the step of a running unit takes OutOfBoundsMemoryAccess with
fault_opcode_valid 0, fault_opcode 0 and fault_pc the out-of-range pc (negative indices and the record are the
spec's own choices D10, D14). Rests on 20_memory.md section 3 (bounds of the instruction stream); 60_exceptions.md
section 3 (the fault record); 92_eei_decisions.md D10, D14. -/
def Obligations.OpcodeFetchOutsideTheStreamFaults : Prop :=
  ∀ s : State, s.run = .running → covered s = true → ¬ PcInRange s →
    ∃ t, step s = .next t ∧ FaultedFrom .outOfBoundsMemoryAccess s t ∧ t.faultRec.opcodeValid = false ∧
      t.faultRec.opcode = 0 ∧ t.faultRec.pc = s.pc

/-- In every state, each index the step presents on the instruction-stream port lies in 0 .. PROG_LEN - 1; when the step
fetches an instruction the indices are its opcode cell and its inline cells in order; outside RUNNING none is
presented (the port is the spec's own choice D20). Rests on 10_state.md section 8 (instruction-stream port);
92_eei_decisions.md D20. -/
def Obligations.FetchPresentsOnlyStreamIndices : Prop :=
  ∀ s : State,
    (∀ i ∈ pmAddrs s, 0 ≤ i ∧ i < (s.prog.length : Int)) ∧
    (s.run ≠ .running → pmAddrs s = []) ∧
    (∀ i, s.run = .running → fetchInstr s = .ok i →
      pmAddrs s = (List.range (encode s.params.opc i).length).map (fun (j : Nat) => s.pc + (j : Int)))

/-- Code 5. If the cell at pc equals no OPC(m), the step raises UnknownOpcode and fault_opcode holds the cell; and a
step raises UnknownOpcode only then. Formalises R175. -/
def Obligations.UnknownOpcodeFaultsWithTheCell : Prop :=
  faultKindCode (some .unknownOpcode) = 5 ∧
  (∀ (s : State) (c : Int), s.run = .running → covered s = true → 0 ≤ s.pc → s.prog[s.pc.toNat]? = some c →
    (∀ o, s.params.opc.code o ≠ c) →
    ∃ t, step s = .next t ∧ t.run = .faulted ∧ t.faultRec.kind = some .unknownOpcode ∧
      t.faultRec.opcodeValid = true ∧ t.faultRec.opcode = c) ∧
  (∀ s t : State, s.run = .running → step s = .next t → t.run = .faulted →
    t.faultRec.kind = some .unknownOpcode →
    ∃ c, 0 ≤ s.pc ∧ s.prog[s.pc.toNat]? = some c ∧ ∀ o, s.params.opc.code o ≠ c)

/-- If the opcode cell at pc is that of an opcode with inline operands and the stream ends before the last of them, the
step takes OutOfBoundsMemoryAccess with the opcode recorded as valid, also when the stack is empty or full (order:
D9). Rests on 40_fetch_dispatch.md sections 2 and 3 (Fetch, order inside a step); 92_eei_decisions.md D9. -/
def Obligations.MissingOperandFaultsBeforeTheStack : Prop :=
  ∀ (o : Opcode) (s : State), OperandCellMissing o s →
    ∃ t, step s = .next t ∧ FaultedFrom .outOfBoundsMemoryAccess s t ∧ t.faultRec.opcodeValid = true ∧
      t.faultRec.opcode = s.params.opc.code o

/-- For every injective opcode map, every instruction with every operand value and every run of cells behind it,
decoding the encoding gives the instruction and the cells behind it. The encoding of a well-formed instruction
consists of cells of the width W, at every width whose cells hold the opcode map. Rests on 30_encoding.md sections 1
to 3; 92_eei_decisions.md D1. -/
def Obligations.DecodeOfEncodeIsTheInstruction : Prop :=
  (∀ (m : OpcMap) (i : Instr) (rest : List Int), m.injective = true →
    decode m (encode m i ++ rest) = .ok (i, rest)) ∧
  (∀ (w : Nat) (m : OpcMap) (i : Instr), m.fits w = true → i.wf w = true →
    (encode m i).all (cellFits w) = true)

/-- Under any opcode map, if a run of cells decodes to an instruction and a rest, the run is the encoding of the
instruction followed by the rest. Rests on 30_encoding.md sections 1 to 3. -/
def Obligations.EncodeOfDecodeIsTheCells : Prop :=
  ∀ (m : OpcMap) (cells rest : List Int) (i : Instr), decode m cells = .ok (i, rest) →
    cells = encode m i ++ rest

/-- Under the default opcode map (the spec's own choice D1): cells 18 2 are CONST 2, 1 is ADD, 23 is PRINT, 25 is HALT,
26 10 2 1 is CALL 10 2 1; cell 0 is no opcode. Rests on 30_encoding.md section 6 (worked encodings);
92_eei_decisions.md D1. -/
def Obligations.SampleCellsDecode : Prop :=
  decode Config.params.opc [18, 2, 18, 3] = .ok (.const 2, [18, 3]) ∧
  decode Config.params.opc [1, 23, 25] = .ok (.add, [23, 25]) ∧
  decode Config.params.opc [23, 25] = .ok (.print, [25]) ∧
  decode Config.params.opc [25] = .ok (.halt, []) ∧
  decode Config.params.opc [26, 10, 2, 1] = .ok (.call 10 2 1, []) ∧
  decode Config.params.opc [0, 25] = .error (.unknownOpcode 0)

/-- If sp < 0, Pop raises StackUnderflow. Otherwise it returns S[sp] and lowers sp by one; the cell read and everything
else keep their values. Formalises R104. -/
def Obligations.PopReadsTheTopAndKeepsIt : Prop :=
  ∀ s : State,
    (s.sp < 0 → pop s = .error .stackUnderflow) ∧
    (0 ≤ s.sp → ∃ t, pop s = .ok (stackCell s s.sp.toNat, t) ∧ t.sp = s.sp - 1 ∧
      t = { s with sp := t.sp })

/-- If sp + 1 > STACK_CAP - 1, Push raises StackOverflow. Otherwise sp rises by one, S[sp] is the pushed cell, and every
other stack cell and everything else keeps its value. Formalises R105. -/
def Obligations.PushWritesTheNewTop : Prop :=
  ∀ (s : State) (v : Int),
    (s.sp + 1 > (s.params.stackCap : Int) - 1 → push v s = .error .stackOverflow) ∧
    (s.sp + 1 ≤ (s.params.stackCap : Int) - 1 → ∃ t, push v s = .ok t ∧ t.sp = s.sp + 1 ∧
      StackSetAt s t t.sp.toNat v ∧ t = { s with sp := t.sp, stack := t.stack })

/-- If e < 0 or e >= GLOBAL_SIZE, GlobalAddr(e) raises OutOfBoundsMemoryAccess; otherwise it returns e. Formalises R108. -/
def Obligations.GlobalAddrChecksTheBounds : Prop :=
  ∀ (s : State) (e : Int),
    (e < 0 ∨ e ≥ (s.params.globalSize : Int) → globalAddr e s = .error .outOfBoundsMemoryAccess) ∧
    (¬ (e < 0 ∨ e ≥ (s.params.globalSize : Int)) → ∃ n : Nat, globalAddr e s = .ok n ∧ (n : Int) = e)

/-- SetSP(v) raises StackOverflow above STACK_CAP - 1 and StackUnderflow below -1, and otherwise writes v to sp and
nothing else; StackAddr(e) raises OutOfBoundsMemoryAccess outside 0 .. STACK_CAP - 1 and otherwise returns e,
whatever sp is (D11, D15). Rests on 40_fetch_dispatch.md section 2 (SetSP, StackAddr); 92_eei_decisions.md D11, D15. -/
def Obligations.SetSpAndStackAddrCheckTheBounds : Prop :=
  ∀ (s : State) (e : Int),
    (e > (s.params.stackCap : Int) - 1 → setSp e s = .error .stackOverflow) ∧
    (e < -1 → setSp e s = .error .stackUnderflow) ∧
    (-1 ≤ e → e ≤ (s.params.stackCap : Int) - 1 → ∃ t, setSp e s = .ok t ∧ t.sp = e ∧ t = { s with sp := t.sp }) ∧
    (e < 0 ∨ e ≥ (s.params.stackCap : Int) → stackAddr e s = .error .outOfBoundsMemoryAccess) ∧
    (¬ (e < 0 ∨ e ≥ (s.params.stackCap : Int)) → ∃ n : Nat, stackAddr e s = .ok n ∧ (n : Int) = e)

/-- In both data memories a write makes its cell read the value and changes no other cell of either memory; writing the
same value again changes nothing. A step from a state with the invariant changes a stack cell only if the fetched
instruction writes that cell, and global cell k only if it is GSTORE k; no read changes a cell. After a GSTORE at k
that completes, and any number of further steps none of which performs GSTORE k, a GLOAD with k on top completes and
gives the stored value. Formalises R56. -/
def Obligations.MemoryWriteChangesOneCellOnly : Prop :=
  (∀ (s : State) (i : Nat) (v : Int),
    (StackSetAt s (stackWrite s i v) i v ∧ SameGlobals s (stackWrite s i v) ∧
      stackWrite (stackWrite s i v) i v = stackWrite s i v) ∧
    (GlobalSetAt s (globalWrite s i v) i v ∧ SameStack s (globalWrite s i v) ∧
      globalWrite (globalWrite s i v) i v = globalWrite s i v)) ∧
  (∀ (s t : State) (k : Nat), s.Inv → step s = .next t →
    (stackCell t k ≠ stackCell s k →
      s.run = .running ∧ ∃ i, fetchInstr s = .ok i ∧ (k : Int) ∈ stackCellsWritten i s) ∧
    (globalCell t k ≠ globalCell s k → PerformsGstore s k)) ∧
  (∀ (s s1 u : State) (k : Int) (n : Nat), s.Inv → PerformsGstore s k → step s = .next s1 → s1.run = .running →
    Sys2Proof.core.run n s1 = .next u →
    (∀ (m : Nat) (x : State), m < n → Sys2Proof.core.run m s1 = .next x → ¬ PerformsGstore x k) →
    u.run = .running → fetchInstr u = .ok .gload → 0 ≤ u.sp → topCell u = k →
    GlobalSetAt s s1 k.toNat (topCell s) ∧
      ∃ v, step u = .next v ∧ v.run = .running ∧ topCell v = topCell s)

/-- With at least two cells on the stack, ADD, SUB and MUL answer a next state with pc at p + 1, sp lower by one, the
exact result modulo 2^W in the cell that held the first-pushed operand, and everything else as before (wrap-around
is the spec's own choice D2). Rests on 41_arith_logic.md sections 1, 2 and 5 (ADD, SUB, MUL); 92_eei_decisions.md
D2. -/
def Obligations.AddSubMulPushTheWrappedResult : Prop :=
  ∀ s : State, s.Inv → 1 ≤ s.sp →
    (∃ t, exec .add s = .next t ∧
      BinaryResult s t (Int.bmod (secondCell s + topCell s) (2 ^ s.params.width))) ∧
    (∃ t, exec .sub s = .next t ∧
      BinaryResult s t (Int.bmod (secondCell s - topCell s) (2 ^ s.params.width))) ∧
    (∃ t, exec .mul s = .next t ∧
      BinaryResult s t (Int.bmod (secondCell s * topCell s) (2 ^ s.params.width)))

/-- With at least one cell on the stack, NEG answers a next state with pc at p + 1, sp as before, the negation modulo
2^W in the operand's cell, and everything else as before (D2). Rests on 41_arith_logic.md section 2 (NEG);
92_eei_decisions.md D2. -/
def Obligations.NegPushesTheWrappedNegation : Prop :=
  ∀ s : State, s.Inv → 0 ≤ s.sp →
    ∃ t, exec .neg s = .next t ∧ UnaryResult s t (Int.bmod (- topCell s) (2 ^ s.params.width))

/-- With two cells on the stack and a top that is not zero, DIV pushes the quotient rounded toward zero (modulo 2^W) and
MOD the remainder that goes with it, with the frame of a two-operand instruction; with a zero top both take
ArithmeticFault and both operands stay. The remainder's sign and INT_MIN / -1 are the spec's own choices D3, D2.
Rests on 41_arith_logic.md section 2 (DIV, MOD); 92_eei_decisions.md D2, D3. -/
def Obligations.DivAndModTruncateOrFault : Prop :=
  ∀ s : State, s.Inv → 1 ≤ s.sp →
    (topCell s ≠ 0 →
      (∃ t, exec .div s = .next t ∧
        BinaryResult s t (Int.bmod (Int.tdiv (secondCell s) (topCell s)) (2 ^ s.params.width))) ∧
      (∃ t, exec .mod s = .next t ∧
        BinaryResult s t (Int.tmod (secondCell s) (topCell s)))) ∧
    (topCell s = 0 →
      (∃ t, exec .div s = .next t ∧ FaultedFrom .arithmeticFault s t) ∧
      (∃ t, exec .mod s = .next t ∧ FaultedFrom .arithmeticFault s t))

/-- At every width from 8 up and for all cells a and b of it with b not zero, the quotient and remainder are cells of
that width, and except for INT_MIN / -1 they satisfy a = b * q + r, |r| < |b|, and r is 0 or has the sign of a.
INT_MIN / -1 gives INT_MIN and INT_MIN mod -1 gives 0 (the spec's own choice D3). Rests on 41_arith_logic.md section
5 (division and remainder); 92_eei_decisions.md D3. -/
def Obligations.QuotientAndRemainderFitTogether : Prop :=
  (∀ (w : Nat) (a b : Int), 8 ≤ w → cellFits w a = true → cellFits w b = true → b ≠ 0 →
    cellFits w (aluDiv w a b) = true ∧ cellFits w (aluMod a b) = true ∧
    (¬ (a = intMin w ∧ b = -1) →
      a = b * aluDiv w a b + aluMod a b ∧ (aluMod a b).natAbs < b.natAbs ∧
      (aluMod a b = 0 ∨ (aluMod a b).sign = a.sign))) ∧
  (∀ w : Nat, 8 ≤ w → aluDiv w (intMin w) (-1) = intMin w ∧ aluMod (intMin w) (-1) = 0)

/-- For every width W from 1 up, wrap(v) is a cell, leaves a cell as it is, and differs from v by a multiple of 2^W; and
on the cells of W-bit two's-complement words ADD, SUB, MUL and NEG are the addition, subtraction, multiplication and
negation of those words (wrap-around is the spec's own choice D2). Rests on 41_arith_logic.md section 5 (width and
wrap-around); 00_scope.md section 4 (cells, wrap); 92_eei_decisions.md D2. -/
def Obligations.WrapIsRingArithmetic : Prop :=
  ∀ w : Nat, 1 ≤ w →
    (∀ v : Int, cellFits w (wrap w v) = true ∧ (cellFits w v = true → wrap w v = v) ∧
      ((2 ^ w : Nat) : Int) ∣ wrap w v - v) ∧
    (∀ a b : BitVec w, cellFits w a.toInt = true ∧
      aluAdd w a.toInt b.toInt = (a + b).toInt ∧ aluSub w a.toInt b.toInt = (a - b).toInt ∧
      aluMul w a.toInt b.toInt = (a * b).toInt ∧ aluNeg w a.toInt = (- a).toInt)

/-- With room for two cells, x and y cells, y not zero, and x / y inside the cell range (not INT_MIN / -1), the three
instructions complete and leave sp one higher than before, the top equal to x / y rounded toward zero, and every
cell that was in use as it was. Rests on 41_arith_logic.md section 1 (template); 95_test_vectors.md T1. -/
def Obligations.DivOfPushedConstantsIsTheirQuotient : Prop :=
  ∀ (s : State) (x y : Int), s.Inv → cellFits s.params.width x = true →
    cellFits s.params.width y = true → s.sp + 2 ≤ (s.params.stackCap : Int) - 1 → y ≠ 0 →
    ¬ (x = intMin s.params.width ∧ y = -1) →
    ∃ s1 s2 t, exec (.const x) s = .next s1 ∧ exec (.const y) s1 = .next s2 ∧ exec .div s2 = .next t ∧
      t.sp = s.sp + 1 ∧ topCell t = Int.tdiv x y ∧ t.run = s.run ∧
      (∀ j : Nat, (j : Int) ≤ s.sp → stackCell t j = stackCell s j)

/-- Each comparison is format F0 with its default opcode value; with two cells on the stack it completes and pushes 1 if
a op b holds of the signed cells (equality of all bits for EQ) and 0 otherwise, with the frame of a two-operand
instruction; with fewer it raises StackUnderflow. Formalises R126, R127, R128, R129, R130. -/
def Obligations.ComparisonsPushOneOrZero : Prop :=
  EncodedAs .lt .lt [] 6 ∧ EncodedAs .gt .gt [] 7 ∧ EncodedAs .leq .leq [] 8 ∧
  EncodedAs .geq .geq [] 9 ∧ EncodedAs .eq .eq [] 10 ∧
  (∀ s : State, s.Inv → 1 ≤ s.sp →
    (∃ t, exec .lt s = .next t ∧ BinaryResult s t (if secondCell s < topCell s then 1 else 0)) ∧
    (∃ t, exec .gt s = .next t ∧ BinaryResult s t (if secondCell s > topCell s then 1 else 0)) ∧
    (∃ t, exec .leq s = .next t ∧ BinaryResult s t (if secondCell s ≤ topCell s then 1 else 0)) ∧
    (∃ t, exec .geq s = .next t ∧ BinaryResult s t (if secondCell s ≥ topCell s then 1 else 0)) ∧
    (∃ t, exec .eq s = .next t ∧ BinaryResult s t (if secondCell s = topCell s then 1 else 0))) ∧
  (∀ s : State, s.sp < 1 →
    Raises .lt s .stackUnderflow ∧ Raises .gt s .stackUnderflow ∧ Raises .leq s .stackUnderflow ∧
    Raises .geq s .stackUnderflow ∧ Raises .eq s .stackUnderflow)

/-- With two cells on the stack, AND and OR complete with the frame of a two-operand instruction and push 1 if both
operands, at least one operand, is exactly the cell 1, and 0 otherwise (that the other value is 0 is the spec's own
choice D4). Rests on 41_arith_logic.md section 4 (AND, OR); 92_eei_decisions.md D4. -/
def Obligations.AndOrCountOnlyExactlyOne : Prop :=
  ∀ s : State, s.Inv → 1 ≤ s.sp →
    (∃ t, exec .and s = .next t ∧ BinaryResult s t (if secondCell s = 1 ∧ topCell s = 1 then 1 else 0)) ∧
    (∃ t, exec .or s = .next t ∧ BinaryResult s t (if secondCell s = 1 ∨ topCell s = 1 then 1 else 0))

/-- NOT is format F0, default opcode 13; with a cell on the stack it completes and replaces it by 0 if it is 1, by 1 if
it is 0, and by itself otherwise, everything else as before; on an empty stack it raises StackUnderflow. Formalises
R133. -/
def Obligations.NotSwapsOneAndZeroOnly : Prop :=
  EncodedAs .not .not [] 13 ∧
  (∀ s : State, s.Inv → 0 ≤ s.sp → ∃ t, exec .not s = .next t ∧
    UnaryResult s t (if topCell s = 1 then 0 else if topCell s = 0 then 1 else topCell s)) ∧
  (∀ s : State, s.sp < 0 → Raises .not s .stackUnderflow)

/-- CONST is format F1, default opcode 18; with room on the stack it completes: sp one higher, S[sp] the literal, pc at
p + 2, everything else as before. A full stack raises StackOverflow; a stream that ends before the literal raises
OutOfBoundsMemoryAccess in the step. Formalises R140. -/
def Obligations.ConstPushesItsLiteral : Prop :=
  (∀ literal : Int, EncodedAs (.const literal) .const [literal] 18) ∧
  (∀ (s : State) (literal : Int), s.Inv → s.sp < (s.params.stackCap : Int) - 1 →
    ∃ t, exec (.const literal) s = .next t ∧ Completed s t (s.pc + 2) (s.sp + 1) s.fp ∧ t.out = s.out ∧
      StackSetAt s t (s.sp + 1).toNat literal ∧ SameGlobals s t) ∧
  (∀ (s : State) (literal : Int), s.sp = (s.params.stackCap : Int) - 1 →
    Raises (.const literal) s .stackOverflow) ∧
  (∀ s : State, OperandCellMissing .const s → StepRaises s .outOfBoundsMemoryAccess)

/-- POP is format F0, default opcode 24; with a cell on the stack it completes: sp one lower, pc at p + 1, every stack
cell (the discarded one too) and everything else as before; on an empty stack it raises StackUnderflow. Formalises
R141. -/
def Obligations.PopDiscardsTheTop : Prop :=
  EncodedAs .pop .pop [] 24 ∧
  (∀ s : State, 0 ≤ s.sp → ∃ t, exec .pop s = .next t ∧ Completed s t (s.pc + 1) (s.sp - 1) s.fp ∧
    t.out = s.out ∧ SameStack s t ∧ SameGlobals s t) ∧
  (∀ s : State, s.sp < 0 → Raises .pop s .stackUnderflow)

/-- LOAD is format F0, default opcode 19. With index a on top and e = fp + a - 2 for a < 0, fp + a + 1 for a >= 0, over
the integers: if e is in 0 .. STACK_CAP - 1 it completes and replaces a by S[e], sp unchanged, pc at p + 1,
everything else as before; otherwise it raises OutOfBoundsMemoryAccess; on an empty stack StackUnderflow. No a
reaches the cells fp - 2, fp - 1, fp. Formalises R142. -/
def Obligations.LoadReadsTheFrameCell : Prop :=
  EncodedAs .load .load [] 19 ∧
  (∀ (s : State) (e : Int), s.Inv → 0 ≤ s.sp →
    e = (if topCell s < 0 then s.fp + topCell s - 2
      else s.fp + topCell s + 1) →
    (0 ≤ e → e ≤ (s.params.stackCap : Int) - 1 → ∃ t, exec .load s = .next t ∧
      UnaryResult s t (stackCell s e.toNat)) ∧
    (e < 0 ∨ e > (s.params.stackCap : Int) - 1 → Raises .load s .outOfBoundsMemoryAccess) ∧
    e ≠ s.fp - 2 ∧ e ≠ s.fp - 1 ∧ e ≠ s.fp) ∧
  (∀ s : State, s.sp < 0 → Raises .load s .stackUnderflow)

/-- STORE is format F1, default opcode 20. With a value on top and e = fp - offset + 1 over the integers: if e is in 0
.. STACK_CAP - 1 it completes: S[e] is the value, every other stack cell as before, sp one lower, pc at p + 2,
everything else as before; otherwise it raises OutOfBoundsMemoryAccess; on an empty stack StackUnderflow; a missing
offset cell raises OutOfBoundsMemoryAccess in the step. Formalises R143. -/
def Obligations.StoreWritesTheFrameCell : Prop :=
  (∀ offset : Int, EncodedAs (.store offset) .store [offset] 20) ∧
  (∀ (s : State) (offset : Int) (e : Int), 0 ≤ s.sp → e = s.fp - offset + 1 →
    (0 ≤ e → e ≤ (s.params.stackCap : Int) - 1 → ∃ t, exec (.store offset) s = .next t ∧
      Completed s t (s.pc + 2) (s.sp - 1) s.fp ∧ t.out = s.out ∧ StackSetAt s t e.toNat (topCell s) ∧
      SameGlobals s t) ∧
    (e < 0 ∨ e > (s.params.stackCap : Int) - 1 → Raises (.store offset) s .outOfBoundsMemoryAccess)) ∧
  (∀ (s : State) (offset : Int), s.sp < 0 → Raises (.store offset) s .stackUnderflow) ∧
  (∀ s : State, OperandCellMissing .store s → StepRaises s .outOfBoundsMemoryAccess)

/-- GLOAD is format F0, default opcode 21. With an address on top in 0 .. GLOBAL_SIZE - 1 it completes and replaces it
by the global cell there, sp unchanged, pc at p + 1, everything else as before; an address outside raises
OutOfBoundsMemoryAccess; an empty stack StackUnderflow. Formalises R144. -/
def Obligations.GloadReadsTheGlobalCell : Prop :=
  EncodedAs .gload .gload [] 21 ∧
  (∀ s : State, s.Inv → 0 ≤ s.sp → 0 ≤ topCell s →
    topCell s < (s.params.globalSize : Int) →
    ∃ t, exec .gload s = .next t ∧ UnaryResult s t (globalCell s (topCell s).toNat)) ∧
  (∀ s : State, 0 ≤ s.sp → topCell s < 0 ∨ topCell s ≥ (s.params.globalSize : Int) →
    Raises .gload s .outOfBoundsMemoryAccess) ∧
  (∀ s : State, s.sp < 0 → Raises .gload s .stackUnderflow)

/-- GSTORE is format F1, default opcode 22. With a value on top and an address in 0 .. GLOBAL_SIZE - 1 it completes:
that global cell is the value, every other global cell as before, sp one lower, pc at p + 2, every stack cell and
everything else as before; an address outside raises OutOfBoundsMemoryAccess; an empty stack StackUnderflow; a
missing address cell raises OutOfBoundsMemoryAccess in the step. Formalises R145. -/
def Obligations.GstoreWritesTheGlobalCell : Prop :=
  (∀ addr : Int, EncodedAs (.gstore addr) .gstore [addr] 22) ∧
  (∀ (s : State) (addr : Int), 0 ≤ s.sp → 0 ≤ addr → addr < (s.params.globalSize : Int) →
    ∃ t, exec (.gstore addr) s = .next t ∧ Completed s t (s.pc + 2) (s.sp - 1) s.fp ∧ t.out = s.out ∧
      GlobalSetAt s t addr.toNat (topCell s) ∧ SameStack s t) ∧
  (∀ (s : State) (addr : Int), 0 ≤ s.sp →
    addr < 0 ∨ addr ≥ (s.params.globalSize : Int) →
    Raises (.gstore addr) s .outOfBoundsMemoryAccess) ∧
  (∀ (s : State) (addr : Int), s.sp < 0 → Raises (.gstore addr) s .stackUnderflow) ∧
  (∀ s : State, OperandCellMissing .gstore s → StepRaises s .outOfBoundsMemoryAccess)

/-- JMP is format F0, default opcode 15; with a target on the stack it completes: pc is the target, unchecked, sp one
lower, every cell and everything else as before; on an empty stack it raises StackUnderflow. Formalises R151. -/
def Obligations.JmpGoesToThePoppedTarget : Prop :=
  EncodedAs .jmp .jmp [] 15 ∧
  (∀ s : State, 0 ≤ s.sp → ∃ t, exec .jmp s = .next t ∧ Completed s t (topCell s) (s.sp - 1) s.fp ∧
    t.out = s.out ∧ SameStack s t ∧ SameGlobals s t) ∧
  (∀ s : State, s.sp < 0 → Raises .jmp s .stackUnderflow)

/-- JMPT is format F0, default opcode 16; with two cells on the stack it completes: both are popped, pc is the target if
the condition is exactly 1 and p + 1 otherwise, every cell and everything else as before; with fewer it raises
StackUnderflow. Formalises R152. -/
def Obligations.JmptIsTakenOnlyOnExactlyOne : Prop :=
  EncodedAs .jmpt .jmpt [] 16 ∧
  (∀ s : State, 1 ≤ s.sp → ∃ t, exec .jmpt s = .next t ∧
    Completed s t (if secondCell s = 1 then topCell s else s.pc + 1) (s.sp - 2) s.fp ∧ t.out = s.out ∧ SameStack s t ∧
    SameGlobals s t) ∧
  (∀ s : State, s.sp < 1 → Raises .jmpt s .stackUnderflow)

/-- JMPF is format F0, default opcode 17; with two cells on the stack it completes: both are popped, pc is the target if
the condition is exactly 0 and p + 1 otherwise, every cell and everything else as before; with fewer it raises
StackUnderflow. On a condition that is neither 0 nor 1 both JMPT and JMPF fall through. Formalises R153. -/
def Obligations.JmpfIsTakenOnlyOnExactlyZero : Prop :=
  EncodedAs .jmpf .jmpf [] 17 ∧
  (∀ s : State, 1 ≤ s.sp → ∃ t, exec .jmpf s = .next t ∧
    Completed s t (if secondCell s = 0 then topCell s else s.pc + 1) (s.sp - 2) s.fp ∧ t.out = s.out ∧ SameStack s t ∧
    SameGlobals s t) ∧
  (∀ s : State, s.sp < 1 → Raises .jmpf s .stackUnderflow) ∧
  (∀ s : State, 1 ≤ s.sp → secondCell s ≠ 0 → secondCell s ≠ 1 →
    ∃ t u, exec .jmpf s = .next t ∧ exec .jmpt s = .next u ∧ t.pc = s.pc + 1 ∧ u.pc = s.pc + 1)

/-- With room for the three pushes and sp + 3 + localcount in -1 .. STACK_CAP - 1, CALL completes: S[sp+1] is argcount,
S[sp+2] is p + 3, S[sp+3] is the caller's fp, every other stack cell (the locals too) as before, fp is sp + 3, sp is
sp + 3 + localcount, pc is the target, everything else as before (negative counts by literal arithmetic: the spec's
own choice D15). Rests on 43_control.md section 3 (frame layout, CALL); 92_eei_decisions.md D15; 90_conflicts.md C2. -/
def Obligations.CallBuildsTheFrame : Prop :=
  ∀ (s : State) (target argcount localcount : Int), s.Inv →
    s.sp + 3 ≤ (s.params.stackCap : Int) - 1 → -1 ≤ s.sp + 3 + localcount →
    s.sp + 3 + localcount ≤ (s.params.stackCap : Int) - 1 →
    ∃ t, exec (.call target argcount localcount) s = .next t ∧
      Completed s t target (s.sp + 3 + localcount) (s.sp + 3) ∧ t.out = s.out ∧
      stackCell t (s.sp + 1).toNat = argcount ∧ stackCell t (s.sp + 2).toNat = s.pc + 3 ∧
      stackCell t (s.sp + 3).toNat = s.fp ∧
      (∀ j : Nat, (j : Int) ≠ s.sp + 1 → (j : Int) ≠ s.sp + 2 → (j : Int) ≠ s.sp + 3 →
        stackCell t j = stackCell s j) ∧ SameGlobals s t

/-- With a cell on the stack, fp in 2 .. STACK_CAP - 1 and n = fp - 3 - S[fp-2] in -1 .. STACK_CAP - 2, RET completes:
fp is S[fp], pc is S[fp-1] + 1 modulo 2^W, sp is n + 1, S[n+1] is the popped result, every other stack cell and
everything else as before (D15, D16). Rests on 43_control.md section 3 (RET); 92_eei_decisions.md D15, D16. -/
def Obligations.RetUnwindsTheFrame : Prop :=
  ∀ (s : State) (n : Int), s.Inv → 0 ≤ s.sp → 2 ≤ s.fp →
    s.fp ≤ (s.params.stackCap : Int) - 1 → n = s.fp - 3 - stackCell s (s.fp.toNat - 2) →
    -1 ≤ n → n ≤ (s.params.stackCap : Int) - 2 →
    ∃ t, exec .ret s = .next t ∧
      Completed s t (Int.bmod (stackCell s (s.fp.toNat - 1) + 1) (2 ^ s.params.width)) (n + 1)
        (stackCell s s.fp.toNat) ∧
      t.out = s.out ∧ StackSetAt s t (n + 1).toNat (topCell s) ∧ SameGlobals s t

/-- Let a CALL with 0 <= argcount <= sp + 1 complete; its localcount may be negative (legal by D15) as long as sp + 3 +
localcount is in -1 .. STACK_CAP - 1. In any later state with the invariant, the same parameters, the same fp, the
same three bookkeeping cells and a result on top, RET completes: sp is the caller's sp minus argcount plus one, fp
the caller's, pc p + 4 (modulo 2^W, which changes nothing for a CALL that was fetched), the top the result, and
every cell below it as the callee left it. Rests on 43_control.md section 4 (call and return round trip);
92_eei_decisions.md D15. -/
def Obligations.CallThenRetRestoresTheCaller : Prop :=
  ∀ (s s1 s2 : State) (target argcount localcount : Int), s.Inv →
    s.sp + 3 ≤ (s.params.stackCap : Int) - 1 → 0 ≤ argcount → argcount ≤ s.sp + 1 →
    -1 ≤ s.sp + 3 + localcount → s.sp + 3 + localcount ≤ (s.params.stackCap : Int) - 1 →
    exec (.call target argcount localcount) s = .next s1 →
    s2.Inv → s2.params = s1.params → s2.fp = s1.fp → 0 ≤ s2.sp →
    stackCell s2 s1.fp.toNat = stackCell s1 s1.fp.toNat →
    stackCell s2 (s1.fp.toNat - 1) = stackCell s1 (s1.fp.toNat - 1) →
    stackCell s2 (s1.fp.toNat - 2) = stackCell s1 (s1.fp.toNat - 2) →
    ∃ t, exec .ret s2 = .next t ∧ t.sp = s.sp - argcount + 1 ∧ t.fp = s.fp ∧
      t.pc = Int.bmod (s.pc + 4) (2 ^ s.params.width) ∧ (PcInRange s → t.pc = s.pc + 4) ∧
      topCell t = topCell s2 ∧ (∀ j : Nat, (j : Int) < t.sp → stackCell t j = stackCell s2 j)

/-- For all n >= 1 arguments on the stack (a call with n = 0 has no first argument) and m >= 0 locals within capacity:
CALL t n m, then CONST -n, LOAD and RET, all complete, and leave sp at its value before the arguments plus one, the
first-pushed argument on top, fp restored, pc at p + 4 (modulo 2^W, which changes nothing for a CALL that was
fetched), every cell below, every global and OUT as before. Rests on 43_control.md section 4 (call and return round
trip); 95_test_vectors.md T2. -/
def Obligations.CallReturningItsFirstArgument : Prop :=
  ∀ (s : State) (target argcount localcount : Int), s.Inv → 1 ≤ argcount →
    argcount ≤ s.sp + 1 → 0 ≤ localcount →
    s.sp + 4 + localcount ≤ (s.params.stackCap : Int) - 1 →
    ∃ s1 s2 s3 t, exec (.call target argcount localcount) s = .next s1 ∧
      exec (.const (- argcount)) s1 = .next s2 ∧ exec .load s2 = .next s3 ∧ exec .ret s3 = .next t ∧
      t.sp = s.sp - argcount + 1 ∧
      topCell t = stackCell s (s.sp - argcount + 1).toNat ∧ t.fp = s.fp ∧
      t.pc = Int.bmod (s.pc + 4) (2 ^ s.params.width) ∧ (PcInRange s → t.pc = s.pc + 4) ∧
      t.run = s.run ∧ t.out = s.out ∧ SameGlobals s t ∧
      (∀ j : Nat, (j : Int) < t.sp → stackCell t j = stackCell s j)

/-- PRINT is format F0, default opcode 23; with a cell on the stack it completes: OUT grows by that cell, the port
presents it, sp one lower, pc at p + 1, every cell and everything else as before; on an empty stack it raises
StackUnderflow and emits nothing. Formalises R160. -/
def Obligations.PrintEmitsTheTopOnce : Prop :=
  EncodedAs .print .print [] 23 ∧
  (∀ s : State, 0 ≤ s.sp → ∃ t, exec .print s = .next t ∧ Completed s t (s.pc + 1) (s.sp - 1) s.fp ∧
    t.out = s.out ++ [topCell s] ∧ outPort s t = some (topCell s) ∧ SameStack s t ∧ SameGlobals s t) ∧
  (∀ s : State, s.sp < 0 → Raises .print s .stackUnderflow ∧
    ∃ t, exec .print s = .next t ∧ t.out = s.out ∧ outPort s t = none)

/-- In every state HALT answers a next state with run HALTED and pc at p + 1 (the value of pc is the spec's own
inference, D16); sp, fp, the fault record, OUT, the program, the parameters and every cell of S and G are as before.
Rests on 44_system.md (HALT); 92_eei_decisions.md D16. -/
def Obligations.HaltStopsAndTouchesNothingElse : Prop :=
  ∀ s : State, ∃ t, exec .halt s = .next t ∧ t.run = .halted ∧ t.pc = s.pc + 1 ∧ t.sp = s.sp ∧ t.fp = s.fp ∧
    t.faultRec = s.faultRec ∧ t.out = s.out ∧ t.prog = s.prog ∧ t.params = s.params ∧ SameStack s t ∧
    SameGlobals s t

/-- Code 1. Push raises it when sp = STACK_CAP - 1 and SetSP(v) when v > STACK_CAP - 1. A running unit with the
invariant raises it exactly in CONST on a full stack, in CALL whose pushes or locals reservation go above the stack,
and in RET whose fp, argument drop or final push does. Each cause occurs by itself in a running unit: CONST's push,
CALL's pushes, CALL's locals with room for the pushes, RET's fp above the stack, RET's argument drop with a negative
saved count and fp inside the stack, and RET's final push after a drop that exactly fills the stack. Formalises
R171. -/
def Obligations.StackOverflowOnlyFromConstCallRet : Prop :=
  faultKindCode (some .stackOverflow) = 1 ∧
  (∀ (s : State) (v : Int), s.sp = (s.params.stackCap : Int) - 1 → push v s = .error .stackOverflow) ∧
  (∀ (s : State) (e : Int), e > (s.params.stackCap : Int) - 1 → setSp e s = .error .stackOverflow) ∧
  (∀ s : State, s.Inv → s.run = .running →
    (StepRaises s .stackOverflow ↔
      (∃ c, fetchInstr s = .ok (.const c) ∧ s.sp = (s.params.stackCap : Int) - 1) ∨
      (∃ target argcount localcount, fetchInstr s = .ok (.call target argcount localcount) ∧
        (s.sp + 3 > (s.params.stackCap : Int) - 1 ∨ s.sp + 3 + localcount > (s.params.stackCap : Int) - 1)) ∨
      (fetchInstr s = .ok .ret ∧ 0 ≤ s.sp ∧
        (s.fp > (s.params.stackCap : Int) - 1 ∨
          2 ≤ s.fp ∧ s.fp - 3 - stackCell s (s.fp.toNat - 2) > (s.params.stackCap : Int) - 2)))) ∧
  (∃ s : State, s.Inv ∧ s.run = .running ∧ ∃ c, Raises (.const c) s .stackOverflow) ∧
  (∃ s : State, s.Inv ∧ s.run = .running ∧ s.sp + 3 > (s.params.stackCap : Int) - 1 ∧
    Raises (.call 0 0 0) s .stackOverflow) ∧
  (∃ s : State, s.Inv ∧ s.run = .running ∧ s.sp + 3 ≤ (s.params.stackCap : Int) - 1 ∧
    ∃ l, Raises (.call 0 0 l) s .stackOverflow) ∧
  (∃ s : State, s.Inv ∧ s.run = .running ∧ 0 ≤ s.sp ∧ s.fp > (s.params.stackCap : Int) - 1 ∧
    Raises .ret s .stackOverflow) ∧
  (∃ s : State, s.Inv ∧ s.run = .running ∧ 0 ≤ s.sp ∧ 2 ≤ s.fp ∧ s.fp ≤ (s.params.stackCap : Int) - 1 ∧
    stackCell s (s.fp.toNat - 2) < 0 ∧ s.fp - 3 - stackCell s (s.fp.toNat - 2) > (s.params.stackCap : Int) - 1 ∧
    Raises .ret s .stackOverflow) ∧
  (∃ s : State, s.Inv ∧ s.run = .running ∧ 0 ≤ s.sp ∧ 2 ≤ s.fp ∧ s.fp ≤ (s.params.stackCap : Int) - 1 ∧
    s.fp - 3 - stackCell s (s.fp.toNat - 2) = (s.params.stackCap : Int) - 1 ∧ Raises .ret s .stackOverflow)

/-- Code 4. The step of a running unit inside the bounds takes ArithmeticFault if and only if the fetched instruction is
DIV or MOD, two operands are on the stack and the top is 0. In particular neither DIV nor MOD of INT_MIN by -1
raises it or any other fault (what they push is not said here). Formalises R174. -/
def Obligations.ArithmeticFaultOnlyFromAZeroDivisor : Prop :=
  faultKindCode (some .arithmeticFault) = 4 ∧
  (∀ s t : State, s.run = .running → covered s = true → step s = .next t →
    ((t.run = .faulted ∧ t.faultRec.kind = some .arithmeticFault) ↔
      ((fetchInstr s = .ok .div ∨ fetchInstr s = .ok .mod) ∧ 1 ≤ s.sp ∧ topCell s = 0))) ∧
  (∀ s : State, s.Inv → 1 ≤ s.sp → secondCell s = intMin s.params.width → topCell s = -1 →
    ∃ t u, exec .div s = .next t ∧ t.run = s.run ∧ t.faultRec = s.faultRec ∧
      exec .mod s = .next u ∧ u.run = s.run ∧ u.faultRec = s.faultRec)

/-- Code 2. Pop raises it when sp = -1 and SetSP(v) when v < -1. A running unit with the invariant raises it exactly in
an instruction of two stack operands on fewer than two cells, in one of one stack operand on an empty stack, in CALL
whose pushes have room and whose negative localcount takes sp below -1, and in RET on an empty stack, with fp below
2, or with an argument drop below -1. So CONST and HALT never raise it; and for every other opcode there is a
running unit in which it does. Formalises R172. -/
def Obligations.StackUnderflowCauses : Prop :=
  faultKindCode (some .stackUnderflow) = 2 ∧
  (∀ s : State, s.sp = -1 → pop s = .error .stackUnderflow) ∧
  (∀ (s : State) (e : Int), e < -1 → setSp e s = .error .stackUnderflow) ∧
  (∀ s : State, s.Inv → s.run = .running →
    (StepRaises s .stackUnderflow ↔ ∃ i, fetchInstr s = .ok i ∧
      (i.opcode ∈ [.add, .sub, .mul, .div, .mod, .lt, .gt, .leq, .geq, .eq, .and, .or, .jmpt, .jmpf] ∧ s.sp < 1 ∨
       i.opcode ∈ [.not, .neg, .jmp, .load, .store, .gload, .gstore, .print, .pop] ∧ s.sp < 0 ∨
       (∃ target argcount localcount, i = .call target argcount localcount ∧
         s.sp + 3 ≤ (s.params.stackCap : Int) - 1 ∧ s.sp + 3 + localcount < -1 ∧ localcount < 0) ∨
       i = .ret ∧ (s.sp < 0 ∨ s.fp ≤ (s.params.stackCap : Int) - 1 ∧
         (s.fp < 2 ∨ s.fp - 3 - stackCell s (s.fp.toNat - 2) < -1))))) ∧
  (∀ o : Opcode, o ≠ .const → o ≠ .halt →
    ∃ (i : Instr) (s : State), i.opcode = o ∧ s.Inv ∧ s.run = .running ∧ Raises i s .stackUnderflow)

/-- Code 3. Fetch, the frame-index check of LOAD and STORE and the address check of GLOAD and GSTORE raise it outside
their memories. A running unit inside the bounds raises it exactly when its fetch does, or with an operand on the
stack in LOAD or STORE whose computed index lies outside 0 .. STACK_CAP - 1 or in GLOAD or GSTORE whose address lies
outside 0 .. GLOBAL_SIZE - 1; a fetch does exactly for an opcode cell outside the stream or a missing inline operand
of CONST, STORE, GSTORE or CALL; and fault_opcode_valid is 0 exactly when the opcode cell's fetch raised it.
Formalises R173. -/
def Obligations.OutOfBoundsMemoryAccessCauses : Prop :=
  faultKindCode (some .outOfBoundsMemoryAccess) = 3 ∧
  (∀ (s : State) (i : Int), i < 0 ∨ i ≥ (s.prog.length : Int) → fetch s i = .error .outOfBoundsMemoryAccess) ∧
  (∀ (s : State) (e : Int), e < 0 ∨ e ≥ (s.params.stackCap : Int) →
    stackAddr e s = .error .outOfBoundsMemoryAccess) ∧
  (∀ (s : State) (e : Int), e < 0 ∨ e ≥ (s.params.globalSize : Int) →
    globalAddr e s = .error .outOfBoundsMemoryAccess) ∧
  (∀ s : State, s.run = .running → covered s = true →
    (StepRaises s .outOfBoundsMemoryAccess ↔
      fetchInstr s = .error .outOfBoundsMemoryAccess ∨
      (0 ≤ s.sp ∧ ∃ e : Int,
        ((fetchInstr s = .ok .load ∧
            e = (if topCell s < 0 then s.fp + topCell s - 2 else s.fp + topCell s + 1) ∨
          ∃ offset, fetchInstr s = .ok (.store offset) ∧ e = s.fp - offset + 1) ∧
            (e < 0 ∨ e ≥ (s.params.stackCap : Int))) ∨
        ((fetchInstr s = .ok .gload ∧ e = topCell s ∨ fetchInstr s = .ok (.gstore e)) ∧
            (e < 0 ∨ e ≥ (s.params.globalSize : Int)))))) ∧
  (∀ s : State, covered s = true →
    (fetchInstr s = .error .outOfBoundsMemoryAccess ↔ ¬ PcInRange s ∨
      0 ≤ s.pc ∧ ∃ o, (o = .const ∨ o = .store ∨ o = .gstore ∨ o = .call) ∧
        s.prog[s.pc.toNat]? = some (s.params.opc.code o) ∧ s.prog.length ≤ s.pc.toNat + inlineCount o)) ∧
  (∀ s t : State, s.run = .running → step s = .next t → t.run = .faulted →
    t.faultRec.kind = some .outOfBoundsMemoryAccess → (t.faultRec.opcodeValid = false ↔ ¬ PcInRange s))
end

