-- ==== Sys2Proof/Laws/Alu.lean ====
section
/-! SUPPORT. The arithmetic of R8 at every width: what `wrap` gives, and the quotient and the remainder as Lean's own. -/

namespace Sys2Proof

/-- The cells of width `w` are the integers from `-2^(w-1)` up to `2^(w-1)`, which is excluded (R7). -/
theorem cellFits_iff {w : Nat} {v : Int} :
    cellFits w v = true ↔ -((2 ^ (w - 1) : Nat) : Int) ≤ v ∧ v < ((2 ^ (w - 1) : Nat) : Int) := by
  simp only [cellFits, intMin, intMax, decide_eq_true_eq, Int.le_sub_one_iff]

/-- Half of the `2^W` values of a cell are negative (R7). -/
theorem two_pow_eq_double {w : Nat} (h : 1 ≤ w) : 2 ^ w = 2 * 2 ^ (w - 1) := by
  obtain ⟨n, rfl⟩ := Nat.exists_eq_add_of_le' h
  simp [Nat.pow_succ, Nat.mul_comm]

/-- At the widths of R6 a cell holds every integer from -128 to 127. -/
theorem two_pow_pred_ge {w : Nat} (h : 8 ≤ w) : 128 ≤ 2 ^ (w - 1) :=
  Nat.pow_le_pow_right (n := 2) (by omega) (show 7 ≤ w - 1 by omega)

namespace Machine

/-- `wrap` gives a cell (R8). -/
theorem wrap_fits {w : Nat} (h : 1 ≤ w) (v : Int) : cellFits w (wrap w v) = true := by
  rw [cellFits_iff, wrap, two_pow_eq_double h]
  have hp := Nat.two_pow_pos (w - 1)
  generalize 2 ^ (w - 1) = m at *
  have h1 := Int.emod_nonneg (v + m) (b := ((2 * m : Nat) : Int)) (by omega)
  have h2 := Int.emod_lt_of_pos (v + m) (b := ((2 * m : Nat) : Int)) (by omega)
  omega

/-- `wrap` is the identity on cells (R8). -/
theorem wrap_of_fits {w : Nat} {v : Int} (h : 1 ≤ w) (hv : cellFits w v = true) : wrap w v = v := by
  rw [cellFits_iff] at hv
  rw [wrap, two_pow_eq_double h]
  generalize 2 ^ (w - 1) = m at *
  rw [Int.emod_eq_of_lt (by omega) (by omega), Int.add_sub_cancel]

/-- `wrap` is Lean's balanced remainder modulo `2^W` (R8). -/
theorem wrap_eq_bmod {w : Nat} (h : 1 ≤ w) (v : Int) : wrap w v = Int.bmod v (2 ^ w) := by
  have hw := wrap_fits h v
  rw [cellFits_iff] at hw
  have hd : (wrap w v).bmod (2 ^ w) = v.bmod (2 ^ w) := by
    rw [wrap, Int.emod_sub_bmod, Int.add_sub_cancel]
  rw [← hd, Int.bmod_eq_of_le] <;> rw [two_pow_eq_double h] <;> generalize 2 ^ (w - 1) = m at * <;> omega

/-- The model's truncating quotient (R8) is Lean's. -/
theorem tdiv_eq (a b : Int) : tdiv a b = Int.tdiv a b := by
  obtain ⟨m, rfl | rfl⟩ := a.eq_nat_or_neg <;> obtain ⟨n, rfl | rfl⟩ := b.eq_nat_or_neg <;>
    rcases m.eq_zero_or_pos with rfl | hm <;> rcases n.eq_zero_or_pos with rfl | hn <;>
    simp_all [tdiv, Int.sign_eq_one_of_pos, Int.tdiv_neg, Int.neg_tdiv]

/-- The model's remainder (R8) is Lean's truncating remainder. -/
theorem trem_eq (a b : Int) : trem a b = Int.tmod a b := by
  rw [trem, tdiv_eq, Int.tmod_def]

/-- MOD needs no `wrap`: the remainder of cells is a cell (R125). -/
theorem aluMod_fits {w : Nat} {a : Int} (ha : cellFits w a = true) (b : Int) : cellFits w (aluMod a b) = true := by
  rw [aluMod, trem_eq]
  rw [cellFits_iff] at *
  have h := Int.natAbs_tmod a b
  generalize 2 ^ (w - 1) = m at *
  have h1 : (a.tmod b).natAbs ≤ a.natAbs := h ▸ Nat.mod_le _ _
  rcases le_or_gt 0 a with h0 | h0
  · have := Int.tmod_nonneg b h0
    omega
  · have := Int.tmod_nonneg b (a := -a) (by omega)
    rw [Int.neg_tmod] at this
    omega

end Machine

end Sys2Proof
end

