-- ==== Sys2Proof/Laws/State.lean ====
section
/-! SUPPORT. One lemma per field per update of the state, all by `rfl`. -/

namespace Sys2Proof.Machine

variable (s : State)

@[simp] theorem State.setPc_pc (v : Int) : (s.setPc v).pc = v := rfl
@[simp] theorem State.setPc_sp (v : Int) : (s.setPc v).sp = s.sp := rfl
@[simp] theorem State.setPc_fp (v : Int) : (s.setPc v).fp = s.fp := rfl
@[simp] theorem State.setPc_run (v : Int) : (s.setPc v).run = s.run := rfl
@[simp] theorem State.setPc_faultRec (v : Int) : (s.setPc v).faultRec = s.faultRec := rfl
@[simp] theorem State.setPc_out (v : Int) : (s.setPc v).out = s.out := rfl
@[simp] theorem State.setPc_prog (v : Int) : (s.setPc v).prog = s.prog := rfl
@[simp] theorem State.setPc_stack (v : Int) : (s.setPc v).stack = s.stack := rfl
@[simp] theorem State.setPc_globals (v : Int) : (s.setPc v).globals = s.globals := rfl
@[simp] theorem State.setPc_params (v : Int) : (s.setPc v).params = s.params := rfl
@[simp] theorem State.setPc_resets (v : Int) : (s.setPc v).resets = s.resets := rfl

@[simp] theorem State.setSpReg_pc (v : Int) : (s.setSpReg v).pc = s.pc := rfl
@[simp] theorem State.setSpReg_sp (v : Int) : (s.setSpReg v).sp = v := rfl
@[simp] theorem State.setSpReg_fp (v : Int) : (s.setSpReg v).fp = s.fp := rfl
@[simp] theorem State.setSpReg_run (v : Int) : (s.setSpReg v).run = s.run := rfl
@[simp] theorem State.setSpReg_faultRec (v : Int) : (s.setSpReg v).faultRec = s.faultRec := rfl
@[simp] theorem State.setSpReg_out (v : Int) : (s.setSpReg v).out = s.out := rfl
@[simp] theorem State.setSpReg_prog (v : Int) : (s.setSpReg v).prog = s.prog := rfl
@[simp] theorem State.setSpReg_stack (v : Int) : (s.setSpReg v).stack = s.stack := rfl
@[simp] theorem State.setSpReg_globals (v : Int) : (s.setSpReg v).globals = s.globals := rfl
@[simp] theorem State.setSpReg_params (v : Int) : (s.setSpReg v).params = s.params := rfl
@[simp] theorem State.setSpReg_resets (v : Int) : (s.setSpReg v).resets = s.resets := rfl

@[simp] theorem State.setFp_pc (v : Int) : (s.setFp v).pc = s.pc := rfl
@[simp] theorem State.setFp_sp (v : Int) : (s.setFp v).sp = s.sp := rfl
@[simp] theorem State.setFp_fp (v : Int) : (s.setFp v).fp = v := rfl
@[simp] theorem State.setFp_run (v : Int) : (s.setFp v).run = s.run := rfl
@[simp] theorem State.setFp_faultRec (v : Int) : (s.setFp v).faultRec = s.faultRec := rfl
@[simp] theorem State.setFp_out (v : Int) : (s.setFp v).out = s.out := rfl
@[simp] theorem State.setFp_prog (v : Int) : (s.setFp v).prog = s.prog := rfl
@[simp] theorem State.setFp_stack (v : Int) : (s.setFp v).stack = s.stack := rfl
@[simp] theorem State.setFp_globals (v : Int) : (s.setFp v).globals = s.globals := rfl
@[simp] theorem State.setFp_params (v : Int) : (s.setFp v).params = s.params := rfl
@[simp] theorem State.setFp_resets (v : Int) : (s.setFp v).resets = s.resets := rfl

@[simp] theorem State.setRun_pc (v : RunState) : (s.setRun v).pc = s.pc := rfl
@[simp] theorem State.setRun_sp (v : RunState) : (s.setRun v).sp = s.sp := rfl
@[simp] theorem State.setRun_fp (v : RunState) : (s.setRun v).fp = s.fp := rfl
@[simp] theorem State.setRun_run (v : RunState) : (s.setRun v).run = v := rfl
@[simp] theorem State.setRun_faultRec (v : RunState) : (s.setRun v).faultRec = s.faultRec := rfl
@[simp] theorem State.setRun_out (v : RunState) : (s.setRun v).out = s.out := rfl
@[simp] theorem State.setRun_prog (v : RunState) : (s.setRun v).prog = s.prog := rfl
@[simp] theorem State.setRun_stack (v : RunState) : (s.setRun v).stack = s.stack := rfl
@[simp] theorem State.setRun_globals (v : RunState) : (s.setRun v).globals = s.globals := rfl
@[simp] theorem State.setRun_params (v : RunState) : (s.setRun v).params = s.params := rfl
@[simp] theorem State.setRun_resets (v : RunState) : (s.setRun v).resets = s.resets := rfl

@[simp] theorem State.setFaultRec_pc (v : FaultRecord) : (s.setFaultRec v).pc = s.pc := rfl
@[simp] theorem State.setFaultRec_sp (v : FaultRecord) : (s.setFaultRec v).sp = s.sp := rfl
@[simp] theorem State.setFaultRec_fp (v : FaultRecord) : (s.setFaultRec v).fp = s.fp := rfl
@[simp] theorem State.setFaultRec_run (v : FaultRecord) : (s.setFaultRec v).run = s.run := rfl
@[simp] theorem State.setFaultRec_faultRec (v : FaultRecord) : (s.setFaultRec v).faultRec = v := rfl
@[simp] theorem State.setFaultRec_out (v : FaultRecord) : (s.setFaultRec v).out = s.out := rfl
@[simp] theorem State.setFaultRec_prog (v : FaultRecord) : (s.setFaultRec v).prog = s.prog := rfl
@[simp] theorem State.setFaultRec_stack (v : FaultRecord) : (s.setFaultRec v).stack = s.stack := rfl
@[simp] theorem State.setFaultRec_globals (v : FaultRecord) : (s.setFaultRec v).globals = s.globals := rfl
@[simp] theorem State.setFaultRec_params (v : FaultRecord) : (s.setFaultRec v).params = s.params := rfl
@[simp] theorem State.setFaultRec_resets (v : FaultRecord) : (s.setFaultRec v).resets = s.resets := rfl

@[simp] theorem State.setOut_pc (v : List Int) : (s.setOut v).pc = s.pc := rfl
@[simp] theorem State.setOut_sp (v : List Int) : (s.setOut v).sp = s.sp := rfl
@[simp] theorem State.setOut_fp (v : List Int) : (s.setOut v).fp = s.fp := rfl
@[simp] theorem State.setOut_run (v : List Int) : (s.setOut v).run = s.run := rfl
@[simp] theorem State.setOut_faultRec (v : List Int) : (s.setOut v).faultRec = s.faultRec := rfl
@[simp] theorem State.setOut_out (v : List Int) : (s.setOut v).out = v := rfl
@[simp] theorem State.setOut_prog (v : List Int) : (s.setOut v).prog = s.prog := rfl
@[simp] theorem State.setOut_stack (v : List Int) : (s.setOut v).stack = s.stack := rfl
@[simp] theorem State.setOut_globals (v : List Int) : (s.setOut v).globals = s.globals := rfl
@[simp] theorem State.setOut_params (v : List Int) : (s.setOut v).params = s.params := rfl
@[simp] theorem State.setOut_resets (v : List Int) : (s.setOut v).resets = s.resets := rfl

@[simp] theorem State.setStack_pc (v : Memory) : (s.setStack v).pc = s.pc := rfl
@[simp] theorem State.setStack_sp (v : Memory) : (s.setStack v).sp = s.sp := rfl
@[simp] theorem State.setStack_fp (v : Memory) : (s.setStack v).fp = s.fp := rfl
@[simp] theorem State.setStack_run (v : Memory) : (s.setStack v).run = s.run := rfl
@[simp] theorem State.setStack_faultRec (v : Memory) : (s.setStack v).faultRec = s.faultRec := rfl
@[simp] theorem State.setStack_out (v : Memory) : (s.setStack v).out = s.out := rfl
@[simp] theorem State.setStack_prog (v : Memory) : (s.setStack v).prog = s.prog := rfl
@[simp] theorem State.setStack_stack (v : Memory) : (s.setStack v).stack = v := rfl
@[simp] theorem State.setStack_globals (v : Memory) : (s.setStack v).globals = s.globals := rfl
@[simp] theorem State.setStack_params (v : Memory) : (s.setStack v).params = s.params := rfl
@[simp] theorem State.setStack_resets (v : Memory) : (s.setStack v).resets = s.resets := rfl

@[simp] theorem State.setGlobals_pc (v : Memory) : (s.setGlobals v).pc = s.pc := rfl
@[simp] theorem State.setGlobals_sp (v : Memory) : (s.setGlobals v).sp = s.sp := rfl
@[simp] theorem State.setGlobals_fp (v : Memory) : (s.setGlobals v).fp = s.fp := rfl
@[simp] theorem State.setGlobals_run (v : Memory) : (s.setGlobals v).run = s.run := rfl
@[simp] theorem State.setGlobals_faultRec (v : Memory) : (s.setGlobals v).faultRec = s.faultRec := rfl
@[simp] theorem State.setGlobals_out (v : Memory) : (s.setGlobals v).out = s.out := rfl
@[simp] theorem State.setGlobals_prog (v : Memory) : (s.setGlobals v).prog = s.prog := rfl
@[simp] theorem State.setGlobals_stack (v : Memory) : (s.setGlobals v).stack = s.stack := rfl
@[simp] theorem State.setGlobals_globals (v : Memory) : (s.setGlobals v).globals = v := rfl
@[simp] theorem State.setGlobals_params (v : Memory) : (s.setGlobals v).params = s.params := rfl
@[simp] theorem State.setGlobals_resets (v : Memory) : (s.setGlobals v).resets = s.resets := rfl

@[simp] theorem stackCell_setPc (v : Int) (i : Nat) : stackCell (s.setPc v) i = stackCell s i := rfl
@[simp] theorem globalCell_setPc (v : Int) (i : Nat) : globalCell (s.setPc v) i = globalCell s i := rfl
@[simp] theorem stackCell_setSpReg (v : Int) (i : Nat) : stackCell (s.setSpReg v) i = stackCell s i := rfl
@[simp] theorem globalCell_setSpReg (v : Int) (i : Nat) : globalCell (s.setSpReg v) i = globalCell s i := rfl
@[simp] theorem stackCell_setFp (v : Int) (i : Nat) : stackCell (s.setFp v) i = stackCell s i := rfl
@[simp] theorem globalCell_setFp (v : Int) (i : Nat) : globalCell (s.setFp v) i = globalCell s i := rfl
@[simp] theorem stackCell_setRun (v : RunState) (i : Nat) : stackCell (s.setRun v) i = stackCell s i := rfl
@[simp] theorem globalCell_setRun (v : RunState) (i : Nat) : globalCell (s.setRun v) i = globalCell s i := rfl
@[simp] theorem stackCell_setFaultRec (v : FaultRecord) (i : Nat) : stackCell (s.setFaultRec v) i = stackCell s i := rfl
@[simp] theorem globalCell_setFaultRec (v : FaultRecord) (i : Nat) : globalCell (s.setFaultRec v) i = globalCell s i := rfl
@[simp] theorem stackCell_setOut (v : List Int) (i : Nat) : stackCell (s.setOut v) i = stackCell s i := rfl
@[simp] theorem globalCell_setOut (v : List Int) (i : Nat) : globalCell (s.setOut v) i = globalCell s i := rfl
@[simp] theorem globalCell_setStack (v : Memory) (i : Nat) : globalCell (s.setStack v) i = globalCell s i := rfl
@[simp] theorem stackCell_setGlobals (v : Memory) (i : Nat) : stackCell (s.setGlobals v) i = stackCell s i := rfl

@[simp] theorem stackWrite_pc (i : Nat) (v : Int) : (stackWrite s i v).pc = s.pc := rfl
@[simp] theorem stackWrite_sp (i : Nat) (v : Int) : (stackWrite s i v).sp = s.sp := rfl
@[simp] theorem stackWrite_fp (i : Nat) (v : Int) : (stackWrite s i v).fp = s.fp := rfl
@[simp] theorem stackWrite_run (i : Nat) (v : Int) : (stackWrite s i v).run = s.run := rfl
@[simp] theorem stackWrite_faultRec (i : Nat) (v : Int) : (stackWrite s i v).faultRec = s.faultRec := rfl
@[simp] theorem stackWrite_out (i : Nat) (v : Int) : (stackWrite s i v).out = s.out := rfl
@[simp] theorem stackWrite_prog (i : Nat) (v : Int) : (stackWrite s i v).prog = s.prog := rfl
@[simp] theorem stackWrite_stack (i : Nat) (v : Int) : (stackWrite s i v).stack = s.stack.write i v := rfl
@[simp] theorem stackWrite_globals (i : Nat) (v : Int) : (stackWrite s i v).globals = s.globals := rfl
@[simp] theorem stackWrite_params (i : Nat) (v : Int) : (stackWrite s i v).params = s.params := rfl
@[simp] theorem stackWrite_resets (i : Nat) (v : Int) : (stackWrite s i v).resets = s.resets := rfl
@[simp] theorem globalWrite_pc (i : Nat) (v : Int) : (globalWrite s i v).pc = s.pc := rfl
@[simp] theorem globalWrite_sp (i : Nat) (v : Int) : (globalWrite s i v).sp = s.sp := rfl
@[simp] theorem globalWrite_fp (i : Nat) (v : Int) : (globalWrite s i v).fp = s.fp := rfl
@[simp] theorem globalWrite_run (i : Nat) (v : Int) : (globalWrite s i v).run = s.run := rfl
@[simp] theorem globalWrite_faultRec (i : Nat) (v : Int) : (globalWrite s i v).faultRec = s.faultRec := rfl
@[simp] theorem globalWrite_out (i : Nat) (v : Int) : (globalWrite s i v).out = s.out := rfl
@[simp] theorem globalWrite_prog (i : Nat) (v : Int) : (globalWrite s i v).prog = s.prog := rfl
@[simp] theorem globalWrite_stack (i : Nat) (v : Int) : (globalWrite s i v).stack = s.stack := rfl
@[simp] theorem globalWrite_globals (i : Nat) (v : Int) : (globalWrite s i v).globals = s.globals.write i v := rfl
@[simp] theorem globalWrite_params (i : Nat) (v : Int) : (globalWrite s i v).params = s.params := rfl
@[simp] theorem globalWrite_resets (i : Nat) (v : Int) : (globalWrite s i v).resets = s.resets := rfl
@[simp] theorem globalCell_stackWrite (i : Nat) (v : Int) (j : Nat) :
    globalCell (stackWrite s i v) j = globalCell s j := rfl
@[simp] theorem stackCell_globalWrite (i : Nat) (v : Int) (j : Nat) :
    stackCell (globalWrite s i v) j = stackCell s j := rfl

end Sys2Proof.Machine
end

