-- ==== Sys2Proof/Laws/Memory.lean ====
section
/-! SUPPORT. The laws of the data memories: read after write, the canonical form, and that equal memories are equal
data. -/

namespace Sys2Proof

@[simp] theorem Memory.cellAt_write_self (m : Memory) (i : Nat) (v : Int) :
    Memory.cellAt (Memory.write m i v) i = some v := by
  induction m with
  | nil => simp [Memory.write, Memory.cellAt]
  | cons c m ih =>
    obtain ⟨j, w⟩ := c
    by_cases h1 : i < j
    · simp [Memory.write, Memory.cellAt, h1]
    · by_cases h2 : i = j
      · simp [Memory.write, Memory.cellAt, h2]
      · simp [Memory.write, Memory.cellAt, h1, h2, ih]

theorem Memory.cellAt_write_of_ne (m : Memory) {i j : Nat} (v : Int) (h : j ≠ i) :
    Memory.cellAt (Memory.write m i v) j = Memory.cellAt m j := by
  induction m with
  | nil => simp [Memory.write, Memory.cellAt, h]
  | cons c m ih =>
    obtain ⟨k, w⟩ := c
    by_cases h1 : i < k
    · simp [Memory.write, Memory.cellAt, h1, h]
    · by_cases h2 : i = k
      · subst h2; simp [Memory.write, Memory.cellAt, h]
      · simp [Memory.write, Memory.cellAt, h1, h2, ih]

theorem Memory.mem_write {m : Memory} {i : Nat} {v : Int} {c : Nat × Int} (h : c ∈ Memory.write m i v) :
    c = (i, v) ∨ c ∈ m := by
  induction m with
  | nil => simpa [Memory.write] using h
  | cons d m ih =>
    obtain ⟨k, w⟩ := d
    by_cases h1 : i < k
    · simpa [Memory.write, h1] using h
    · by_cases h2 : i = k
      · rcases (by simpa [Memory.write, h2] using h : c = (k, v) ∨ c ∈ m) with h | h
        · exact .inl (h2 ▸ h)
        · exact .inr (List.mem_cons_of_mem _ h)
      · rcases (by simpa [Memory.write, h1, h2] using h : c = (k, w) ∨ c ∈ Memory.write m i v) with h | h
        · exact .inr (h ▸ List.mem_cons_self)
        · exact (ih h).imp_right (List.mem_cons_of_mem _)

@[simp] theorem Memory.wf_nil : Memory.wf [] = true := rfl

@[simp] theorem Memory.within_nil (n : Nat) : Memory.within [] n = true := by simp [Memory.within]

theorem Memory.wf_write {m : Memory} (h : Memory.wf m = true) (i : Nat) (v : Int) :
    Memory.wf (Memory.write m i v) = true := by
  simp only [Memory.wf, decide_eq_true_eq] at h ⊢
  induction m with
  | nil => simp [Memory.write]
  | cons d m ih =>
    obtain ⟨k, w⟩ := d
    obtain ⟨hk, hm⟩ := List.pairwise_cons.mp h
    by_cases h1 : i < k
    · simp only [Memory.write, h1, if_true]
      refine List.pairwise_cons.mpr ⟨fun c hc => ?_, h⟩
      rcases List.mem_cons.mp hc with rfl | hc
      · exact h1
      · exact h1.trans (hk c hc)
    · by_cases h2 : i = k
      · subst h2
        simpa [Memory.write] using List.pairwise_cons.mpr ⟨hk, hm⟩
      · simp only [Memory.write, h1, h2, if_false]
        refine List.pairwise_cons.mpr ⟨fun c hc => ?_, ih hm⟩
        rcases Memory.mem_write hc with rfl | hc
        · show k < i
          omega
        · exact hk c hc

theorem Memory.within_write {m : Memory} {n : Nat} (h : Memory.within m n = true) {i : Nat} (hi : i < n) (v : Int) :
    Memory.within (Memory.write m i v) n = true := by
  simp only [Memory.within, decide_eq_true_eq] at h ⊢
  intro c hc
  rcases Memory.mem_write hc with rfl | hc
  · exact hi
  · exact h c hc

@[simp] theorem Memory.fits_nil (w : Nat) : Memory.fits [] w = true := rfl

theorem Memory.fits_write {m : Memory} {w : Nat} (h : Memory.fits m w = true) (i : Nat) {v : Int}
    (hv : cellFits w v = true) : Memory.fits (Memory.write m i v) w = true := by
  simp only [Memory.fits, List.all_eq_true] at h ⊢
  intro c hc
  rcases Memory.mem_write hc with rfl | hc
  · exact hv
  · exact h c hc

theorem Memory.mem_of_cellAt {m : Memory} {i : Nat} {v : Int} (h : Memory.cellAt m i = some v) : (i, v) ∈ m := by
  induction m with
  | nil => cases h
  | cons d m ih =>
    obtain ⟨j, u⟩ := d
    by_cases hij : i = j
    · rw [Memory.cellAt, if_pos hij, Option.some.injEq] at h
      exact h ▸ hij ▸ List.mem_cons_self
    · rw [Memory.cellAt, if_neg hij] at h
      exact List.mem_cons_of_mem _ (ih h)

/-- A memory of cells reads as cells, whatever cell an unlisted index reads as. -/
theorem Memory.cellAt_getD_fits {m : Memory} {w : Nat} (h : Memory.fits m w = true) (i : Nat) {d : Int}
    (hd : cellFits w d = true) : cellFits w ((Memory.cellAt m i).getD d) = true := by
  cases hc : Memory.cellAt m i with
  | none => exact hd
  | some v => exact List.all_eq_true.mp h _ (Memory.mem_of_cellAt hc)

theorem Memory.cellAt_eq_none_of_lt {m : Memory} {i : Nat} (h : ∀ c ∈ m, i < c.1) : Memory.cellAt m i = none := by
  induction m with
  | nil => rfl
  | cons d m ih =>
    obtain ⟨k, w⟩ := d
    have hk : i < k := h (k, w) List.mem_cons_self
    simp [Memory.cellAt, Nat.ne_of_lt hk, ih fun c hc => h c (List.mem_cons_of_mem _ hc)]

/-- Memories in canonical form that read the same everywhere are the same data. -/
theorem Memory.ext_of_wf {m n : Memory} (hm : Memory.wf m = true) (hn : Memory.wf n = true)
    (h : ∀ i, Memory.cellAt m i = Memory.cellAt n i) : m = n := by
  simp only [Memory.wf, decide_eq_true_eq] at hm hn
  induction m generalizing n with
  | nil =>
    cases n with
    | nil => rfl
    | cons d n => simpa [Memory.cellAt] using h d.1
  | cons c m ih =>
    cases n with
    | nil => simpa [Memory.cellAt] using h c.1
    | cons d n =>
      obtain ⟨i, v⟩ := c
      obtain ⟨j, w⟩ := d
      obtain ⟨hi, hm'⟩ := List.pairwise_cons.mp hm
      obtain ⟨hj, hn'⟩ := List.pairwise_cons.mp hn
      have hij : i = j := by
        rcases Nat.lt_trichotomy i j with hlt | heq | hlt
        · have := h i
          rw [Memory.cellAt_eq_none_of_lt (m := (j, w) :: n)] at this
          · simp [Memory.cellAt] at this
          · intro c hc
            rcases List.mem_cons.mp hc with rfl | hc
            · exact hlt
            · exact hlt.trans (hj c hc)
        · exact heq
        · have := h j
          rw [Memory.cellAt_eq_none_of_lt (m := (i, v) :: m)] at this
          · simp [Memory.cellAt] at this
          · intro c hc
            rcases List.mem_cons.mp hc with rfl | hc
            · exact hlt
            · exact hlt.trans (hi c hc)
      subst hij
      have hv : v = w := by simpa [Memory.cellAt] using h i
      subst hv
      congr 1
      refine ih (fun k => ?_) hm' hn'
      by_cases hk : k = i
      · subst hk
        rw [Memory.cellAt_eq_none_of_lt hi, Memory.cellAt_eq_none_of_lt hj]
      · simpa [Memory.cellAt, hk] using h k

namespace Machine

variable (s : State)

@[simp] theorem stackCell_stackWrite_self (i : Nat) (v : Int) : stackCell (stackWrite s i v) i = v := by
  simp [stackCell, stackWrite]

theorem stackCell_stackWrite_of_ne {i j : Nat} (v : Int) (h : j ≠ i) :
    stackCell (stackWrite s i v) j = stackCell s j := by
  simp [stackCell, stackWrite, stackReset, Memory.cellAt_write_of_ne _ _ h]

/-- Every stack cell reads as a cell (R7, R31). -/
theorem stackCell_fits {s : State} (hw : 1 ≤ s.params.width) (h : s.stack.fits s.params.width = true) (i : Nat) :
    cellFits s.params.width (stackCell s i) = true :=
  Memory.cellAt_getD_fits h i (wrap_fits hw _)

/-- Every global cell reads as a cell (R7, R144). -/
theorem globalCell_fits {s : State} (hw : 1 ≤ s.params.width) (h : s.globals.fits s.params.width = true) (i : Nat) :
    cellFits s.params.width (globalCell s i) = true :=
  Memory.cellAt_getD_fits h i (wrap_fits hw _)

theorem stackCell_stackWrite (i j : Nat) (v : Int) :
    stackCell (stackWrite s i v) j = if j = i then v else stackCell s j := by
  split
  · next h => subst h; simp
  · next h => exact stackCell_stackWrite_of_ne s v h

@[simp] theorem globalCell_globalWrite_self (i : Nat) (v : Int) : globalCell (globalWrite s i v) i = v := by
  simp [globalCell, globalWrite]

theorem globalCell_globalWrite_of_ne {i j : Nat} (v : Int) (h : j ≠ i) :
    globalCell (globalWrite s i v) j = globalCell s j := by
  simp [globalCell, globalWrite, globalReset, Memory.cellAt_write_of_ne _ _ h]

theorem globalCell_globalWrite (i j : Nat) (v : Int) :
    globalCell (globalWrite s i v) j = if j = i then v else globalCell s j := by
  split
  · next h => subst h; simp
  · next h => exact globalCell_globalWrite_of_ne s v h

end Machine

end Sys2Proof
end

