-- ==== Sys2Proof/Laws/Ops.lean ====
section
/-! SUPPORT. What each shared operation can do, said once: the form it answers under its condition, and what it can have
answered. Later proofs cite these and do not unfold the operations. -/

namespace Sys2Proof.Machine

section Bounds

variable {s : State}

theorem width_bound (h : covered s = true) : 8 ≤ s.params.width := by
  simp [covered, Params.wf, Params.widthOk] at h
  omega

theorem stackCap_bounds (h : covered s = true) :
    1 ≤ s.params.stackCap ∧ s.params.stackCap ≤ 2 ^ (s.params.width - 1) - 1 := by
  simp [covered, Params.wf, Params.stackCapOk] at h
  omega

theorem globalSize_bounds (h : covered s = true) :
    1 ≤ s.params.globalSize ∧ s.params.globalSize ≤ 2 ^ (s.params.width - 1) - 1 := by
  simp [covered, Params.wf, Params.globalSizeOk] at h
  omega

theorem progLen_bound (h : covered s = true) : s.prog.length ≤ 2 ^ (s.params.width - 1) - 4 := by
  simp [covered, progLenOk] at h
  omega

theorem opc_injective (h : covered s = true) : s.params.opc.injective = true := by
  simp [covered, Params.wf] at h
  tauto

theorem opc_fits (h : covered s = true) : s.params.opc.fits s.params.width = true := by
  simp [covered, Params.wf] at h
  tauto

/-- Every cell of the instruction stream is a cell of the unit's width (R41). -/
theorem prog_fits (h : covered s = true) {c : Int} (hc : c ∈ s.prog) : cellFits s.params.width c = true := by
  simp only [covered, progCellsOk, Bool.and_eq_true, List.all_eq_true] at h
  exact h.2 c hc

end Bounds

section Primitives

variable {s t : State} {k : FaultKind} {v : Int}

theorem fetch_of_inRange {i : Int} (h1 : 0 ≤ i) {c : Int} (h2 : s.prog[i.toNat]? = some c) : fetch s i = .ok c := by
  simp [fetch, Int.not_lt.mpr h1, h2]

theorem fetch_of_outOfRange {i : Int} (h : i < 0 ∨ (s.prog.length : Int) ≤ i) :
    fetch s i = .error .outOfBoundsMemoryAccess := by
  unfold fetch
  split
  · rfl
  · rw [List.getElem?_eq_none (by omega)]

theorem pop_of_nonneg (h : 0 ≤ s.sp) : pop s = .ok (topCell s, s.setSpReg (s.sp - 1)) := by
  simp [pop, Int.not_lt.mpr h, topCell]

theorem pop_of_neg (h : s.sp < 0) : pop s = .error .stackUnderflow := by
  simp [pop, h]

/-- `Pop` answers only in these two ways (R104). -/
theorem pop_cases (s : State) :
    (s.sp < 0 ∧ pop s = .error .stackUnderflow) ∨
    (0 ≤ s.sp ∧ pop s = .ok (topCell s, s.setSpReg (s.sp - 1))) := by
  rcases lt_or_ge s.sp 0 with h | h
  · exact .inl ⟨h, pop_of_neg h⟩
  · exact .inr ⟨h, pop_of_nonneg h⟩

theorem push_of_room (h : s.sp + 1 ≤ (s.params.stackCap : Int) - 1) :
    push v s = .ok (stackWrite (s.setSpReg (s.sp + 1)) (s.sp + 1).toNat v) :=
  if_neg (by omega)

theorem push_of_full (h : (s.params.stackCap : Int) - 1 < s.sp + 1) : push v s = .error .stackOverflow :=
  if_pos h

/-- `Push` answers only in these two ways (R105). -/
theorem push_cases (v : Int) (s : State) :
    ((s.params.stackCap : Int) - 1 < s.sp + 1 ∧ push v s = .error .stackOverflow) ∨
    (s.sp + 1 ≤ (s.params.stackCap : Int) - 1 ∧
      push v s = .ok (stackWrite (s.setSpReg (s.sp + 1)) (s.sp + 1).toNat v)) := by
  rcases lt_or_ge ((s.params.stackCap : Int) - 1) (s.sp + 1) with h | h
  · exact .inl ⟨h, push_of_full h⟩
  · exact .inr ⟨h, push_of_room h⟩

theorem setSp_of_inRange {e : Int} (h1 : -1 ≤ e) (h2 : e ≤ (s.params.stackCap : Int) - 1) :
    setSp e s = .ok (s.setSpReg (e)) := by
  simp only [setSp]
  rw [if_neg (by omega), if_neg (by omega)]

theorem setSp_of_high {e : Int} (h : (s.params.stackCap : Int) - 1 < e) : setSp e s = .error .stackOverflow := by
  simp only [setSp]
  rw [if_pos (by omega)]

theorem setSp_of_low {e : Int} (h1 : e ≤ (s.params.stackCap : Int) - 1) (h2 : e < -1) :
    setSp e s = .error .stackUnderflow := by
  simp only [setSp]
  rw [if_neg (by omega), if_pos h2]

/-- `SetSP` answers only in these three ways (R106). -/
theorem setSp_cases (e : Int) (s : State) :
    ((s.params.stackCap : Int) - 1 < e ∧ setSp e s = .error .stackOverflow) ∨
    (e ≤ (s.params.stackCap : Int) - 1 ∧ e < -1 ∧ setSp e s = .error .stackUnderflow) ∨
    (-1 ≤ e ∧ e ≤ (s.params.stackCap : Int) - 1 ∧ setSp e s = .ok (s.setSpReg (e))) := by
  rcases lt_or_ge ((s.params.stackCap : Int) - 1) e with h | h
  · exact .inl ⟨h, setSp_of_high h⟩
  · rcases lt_or_ge e (-1) with h' | h'
    · exact .inr (.inl ⟨h, h', setSp_of_low h h'⟩)
    · exact .inr (.inr ⟨h', h, setSp_of_inRange h' h⟩)

theorem stackAddr_of_inRange {e : Int} (h1 : 0 ≤ e) (h2 : e < (s.params.stackCap : Int)) :
    stackAddr e s = .ok e.toNat := by
  simp only [stackAddr]
  rw [if_neg (by omega)]

theorem stackAddr_of_outOfRange {e : Int} (h : e < 0 ∨ (s.params.stackCap : Int) ≤ e) :
    stackAddr e s = .error .outOfBoundsMemoryAccess := by
  simp only [stackAddr]
  rw [if_pos (by omega)]

theorem globalAddr_of_inRange {e : Int} (h1 : 0 ≤ e) (h2 : e < (s.params.globalSize : Int)) :
    globalAddr e s = .ok e.toNat := by
  simp only [globalAddr]
  rw [if_neg (by omega)]

theorem globalAddr_of_outOfRange {e : Int} (h : e < 0 ∨ (s.params.globalSize : Int) ≤ e) :
    globalAddr e s = .error .outOfBoundsMemoryAccess := by
  simp only [globalAddr]
  rw [if_pos (by omega)]

end Primitives

section Monad

variable {α β : Type}

@[simp] theorem ok_bind (a : α) (f : α → Except FaultKind β) : (Except.ok a >>= f) = f a := rfl

@[simp] theorem error_bind (k : FaultKind) (f : α → Except FaultKind β) :
    ((Except.error k : Except FaultKind α) >>= f) = Except.error k := rfl

/-- A sequence answers only if its first part does. -/
theorem bind_eq_ok {x : Except FaultKind α} {f : α → Except FaultKind β} {b : β} (h : x >>= f = .ok b) :
    ∃ a, x = .ok a ∧ f a = .ok b := by
  cases x with
  | error k => cases h
  | ok a => exact ⟨a, rfl, h⟩

end Monad

section Faults

variable (k : FaultKind) (s : State)

@[simp] theorem takeFault_run : (takeFault k s).run = .faulted := rfl
@[simp] theorem takeFault_faultRec : (takeFault k s).faultRec = recordFault k s := rfl
@[simp] theorem takeFault_pc : (takeFault k s).pc = s.pc := rfl
@[simp] theorem takeFault_sp : (takeFault k s).sp = s.sp := rfl
@[simp] theorem takeFault_fp : (takeFault k s).fp = s.fp := rfl
@[simp] theorem takeFault_out : (takeFault k s).out = s.out := rfl
@[simp] theorem takeFault_prog : (takeFault k s).prog = s.prog := rfl
@[simp] theorem takeFault_stack : (takeFault k s).stack = s.stack := rfl
@[simp] theorem takeFault_globals : (takeFault k s).globals = s.globals := rfl
@[simp] theorem takeFault_params : (takeFault k s).params = s.params := rfl
@[simp] theorem takeFault_resets : (takeFault k s).resets = s.resets := rfl

@[simp] theorem recordFault_kind : (recordFault k s).kind = some k := by
  unfold recordFault; split <;> rfl

@[simp] theorem finish_ok (t : State) : finish s (.ok t) = .next t := rfl
@[simp] theorem finish_error : finish s (.error k) = .next (takeFault k s) := rfl

/-- An instruction answers a next state on every path (R110). -/
theorem finish_next (r : Except FaultKind State) : ∃ t, finish s r = .next t := by
  cases r <;> exact ⟨_, rfl⟩

/-- If an instruction answers `t`, it completed with `t` or took a fault. -/
theorem finish_cases {s t : State} {r : Except FaultKind State} (h : finish s r = .next t) :
    r = .ok t ∨ ∃ k, r = .error k ∧ t = takeFault k s := by
  cases r with
  | ok u => exact .inl (by cases h; rfl)
  | error k => exact .inr ⟨k, rfl, by cases h; rfl⟩

end Faults

section Small

variable (s : State)

@[simp] theorem advance_zero : advance 0 s = s.setPc (s.pc + 1) := by simp [advance]

@[simp] theorem advance_one : advance 1 s = s.setPc (s.pc + 2) := by simp [advance, Int.add_assoc]

@[simp] theorem emit_eq (v : Int) : emit v s = s.setOut (s.out ++ [v]) := rfl

theorem topCell_setSpReg_pred : topCell (s.setSpReg (s.sp - 1)) = secondCell s := by
  rw [topCell, secondCell, stackCell_setSpReg, State.setSpReg_sp, show (s.sp - 1).toNat = s.sp.toNat - 1 by omega]

end Small

end Sys2Proof.Machine
end

