-- ==== Sys2Proof/Laws/Decode.lean ====
section
/-! SUPPORT. The decoder: the opcode map and its reverse, and the operands an opcode takes. -/

namespace Sys2Proof

theorem Opcode.mem_all (o : Opcode) : o ∈ Opcode.all := by cases o <;> decide

/-- An opcode map inside R6 gives different mnemonics different cells. -/
theorem OpcMap.code_injective {m : OpcMap} (h : m.injective = true) {a b : Opcode} (hab : m.code a = m.code b) :
    a = b :=
  List.inj_on_of_nodup_map (by simpa [OpcMap.injective] using h) (Opcode.mem_all a) (Opcode.mem_all b) hab

/-- The decoder finds the opcode of a legal opcode cell (R86). -/
theorem opcodeOf?_code {m : OpcMap} (h : m.injective = true) (o : Opcode) : opcodeOf? m (m.code o) = some o := by
  cases hf : opcodeOf? m (m.code o) with
  | none => simpa using List.find?_eq_none.mp hf o (Opcode.mem_all o)
  | some p =>
    have hp : m.code p = m.code o := by simpa using List.find?_some hf
    rw [OpcMap.code_injective h hp]

theorem code_of_opcodeOf? {m : OpcMap} {c : Int} {o : Opcode} (h : opcodeOf? m c = some o) : m.code o = c := by
  simpa using List.find?_some h

theorem opcodeOf?_eq_none {m : OpcMap} {c : Int} : opcodeOf? m c = none ↔ ∀ o, m.code o ≠ c := by
  simp only [opcodeOf?, List.find?_eq_none, decide_eq_true_eq]
  exact ⟨fun h o => h o (Opcode.mem_all o), fun h o _ => h o⟩

/-- The operands that an instruction carries are the operands its opcode takes (R81). -/
theorem takeOperands_operands (i : Instr) (rest : List Int) :
    takeOperands i.opcode (i.operands ++ rest) = some (i, rest) := by
  cases i <;> rfl

/-- What an opcode takes are the operands of the instruction it makes (R81). -/
theorem takeOperands_eq_some {o : Opcode} {cells rest : List Int} {i : Instr}
    (h : takeOperands o cells = some (i, rest)) : i.opcode = o ∧ cells = i.operands ++ rest := by
  unfold takeOperands at h
  split at h <;> simp at h <;> obtain ⟨rfl, rfl⟩ := h <;> exact ⟨rfl, rfl⟩

/-- An opcode lacks an operand exactly when fewer cells follow than its inline count (R83). -/
theorem takeOperands_eq_none {o : Opcode} {cells : List Int} :
    takeOperands o cells = none ↔ cells.length < inlineCount o := by
  unfold takeOperands
  split <;> simp [inlineCount]

/-- What the decoder answers, by the opcode cell and the cells behind it (R82, R102). -/
theorem decode_cons (m : OpcMap) (c : Int) (rest : List Int) :
    decode m (c :: rest) =
      match opcodeOf? m c with
      | none => .error (.unknownOpcode c)
      | some o =>
        match takeOperands o rest with
        | none => .error (.missingOperand o)
        | some r => .ok r := rfl

end Sys2Proof
end

