-- ==== Sys2Proof/Laws/Operands.lean ====
section
/-! SUPPORT. What the operand forms answer: two popped operands, one popped operand, and the conditional jumps. -/

namespace Sys2Proof.Machine

variable {s : State} {v : Int} {k : FaultKind}

/-- Two pops of at least two cells give the top and the cell below it (R104). -/
theorem pop_pop (h : 1 ≤ s.sp) :
    pop s = .ok (topCell s, s.setSpReg (s.sp - 1)) ∧
    pop (s.setSpReg (s.sp - 1)) = .ok (secondCell s, s.setSpReg (s.sp - 1 - 1)) := by
  refine ⟨pop_of_nonneg (by omega), ?_⟩
  rw [pop_of_nonneg (by rw [State.setSpReg_sp]; omega), topCell_setSpReg_pred]
  rfl

/-- One cell is too few for two pops, and it does not matter which pop fails (R121). -/
theorem pop_pop_of_short (h : s.sp < 1) {α : Type} (f : Int → Int → State → Except FaultKind α) :
    (do let (b, s1) ← pop s
        let (a, s2) ← pop s1
        f b a s2) = .error .stackUnderflow := by
  rcases pop_cases s with ⟨_, e⟩ | ⟨h0, e⟩
  · rw [e]; rfl
  · have e' : pop (s.setSpReg (s.sp - 1)) = .error .stackUnderflow :=
      pop_of_neg (by rw [State.setSpReg_sp]; omega)
    rw [e, ok_bind]
    simp only [e', error_bind]

theorem binaryOp_of_short (f : Int → Int → Except FaultKind Int) (h : s.sp < 1) :
    binaryOp f s = .error .stackUnderflow :=
  pop_pop_of_short h fun b a s2 => do
    let v ← f a b
    let s3 ← push v s2
    .ok (advance 0 s3)

theorem binaryOp_of_error {f : Int → Int → Except FaultKind Int} (h : 1 ≤ s.sp)
    (hf : f (secondCell s) (topCell s) = .error k) : binaryOp f s = .error k := by
  simp only [binaryOp, (pop_pop h).1, (pop_pop h).2, ok_bind, hf, error_bind]

/-- The result lands in the cell that held the first-pushed operand (R120, R139). -/
theorem binaryOp_of_ok {f : Int → Int → Except FaultKind Int} (h : 1 ≤ s.sp)
    (hs : s.sp ≤ (s.params.stackCap : Int) - 1) (hf : f (secondCell s) (topCell s) = .ok v) :
    binaryOp f s = .ok ((stackWrite (s.setSpReg (s.sp - 1)) (s.sp.toNat - 1) v).setPc (s.pc + 1)) := by
  have hp : push v (s.setSpReg (s.sp - 1 - 1)) =
      .ok (stackWrite (s.setSpReg (s.sp - 1)) (s.sp.toNat - 1) v) := by
    rw [push_of_room (by simp only [State.setSpReg_sp, State.setSpReg_params]; omega)]
    rw [State.setSpReg_sp, show s.sp - 1 - 1 + 1 = s.sp - 1 by omega, show (s.sp - 1).toNat = s.sp.toNat - 1 by omega]
    rfl
  simp only [binaryOp, (pop_pop h).1, (pop_pop h).2, ok_bind, hf, hp, advance_zero]
  rfl

theorem unaryOp_of_empty (f : Int → Int) (h : s.sp < 0) : unaryOp f s = .error .stackUnderflow := by
  simp only [unaryOp, pop_of_neg h, error_bind]

/-- A pop and then a push of `v` leave `v` where the popped cell was (R104, R105). -/
theorem push_after_pop (hs : s.sp ≤ (s.params.stackCap : Int) - 1) :
    push v (s.setSpReg (s.sp - 1)) = .ok (stackWrite s s.sp.toNat v) := by
  rw [push_of_room (by simp only [State.setSpReg_sp, State.setSpReg_params]; omega)]
  rw [State.setSpReg_sp, Int.sub_add_cancel]
  rfl

/-- The result replaces the operand (R120, R139). -/
theorem unaryOp_of_ok (f : Int → Int) (h : 0 ≤ s.sp) (hs : s.sp ≤ (s.params.stackCap : Int) - 1) :
    unaryOp f s = .ok ((stackWrite s s.sp.toNat (f (topCell s))).setPc (s.pc + 1)) := by
  simp only [unaryOp, pop_of_nonneg h, ok_bind, push_after_pop hs, advance_zero]
  rfl

theorem condJump_of_short (taken : Int → Bool) (h : s.sp < 1) : condJump taken s = .error .stackUnderflow :=
  pop_pop_of_short h fun target cond s2 => .ok (if taken cond then s2.setPc target else advance 0 s2)

/-- Both operands are popped whether or not the jump is taken (R152, R153). -/
theorem condJump_of_ok (taken : Int → Bool) (h : 1 ≤ s.sp) :
    condJump taken s =
      .ok ((s.setSpReg (s.sp - 1 - 1)).setPc (if taken (secondCell s) then topCell s else s.pc + 1)) := by
  simp only [condJump, (pop_pop h).1, (pop_pop h).2, ok_bind, advance_zero]
  cases taken (secondCell s) <;> rfl

end Sys2Proof.Machine
end

