-- ==== Sys2Proof/Laws/PerInstr.lean ====
section
/-! SUPPORT. The families of statements about instructions as syntax, one lemma per constructor. -/

/-- An instruction with `k` inline operands is encoded in `1 + k` cells, and `k` is 0, 1 or 3 (R80). -/
def Sys2Proof.Laws.EncodedLength.Statement (i : Sys2Proof.Instr) : Prop :=
  (∀ m : Sys2Proof.OpcMap, (Sys2Proof.encode m i).length = 1 + Sys2Proof.inlineCount i.opcode) ∧
  (Sys2Proof.inlineCount i.opcode = 0 ∨ Sys2Proof.inlineCount i.opcode = 1 ∨ Sys2Proof.inlineCount i.opcode = 3)

theorem Sys2Proof.Laws.EncodedLength.add :
    Sys2Proof.Laws.EncodedLength.Statement .add := ⟨fun _ => rfl, .inl rfl⟩

theorem Sys2Proof.Laws.EncodedLength.sub :
    Sys2Proof.Laws.EncodedLength.Statement .sub := ⟨fun _ => rfl, .inl rfl⟩

theorem Sys2Proof.Laws.EncodedLength.mul :
    Sys2Proof.Laws.EncodedLength.Statement .mul := ⟨fun _ => rfl, .inl rfl⟩

theorem Sys2Proof.Laws.EncodedLength.div :
    Sys2Proof.Laws.EncodedLength.Statement .div := ⟨fun _ => rfl, .inl rfl⟩

theorem Sys2Proof.Laws.EncodedLength.mod :
    Sys2Proof.Laws.EncodedLength.Statement .mod := ⟨fun _ => rfl, .inl rfl⟩

theorem Sys2Proof.Laws.EncodedLength.lt :
    Sys2Proof.Laws.EncodedLength.Statement .lt := ⟨fun _ => rfl, .inl rfl⟩

theorem Sys2Proof.Laws.EncodedLength.gt :
    Sys2Proof.Laws.EncodedLength.Statement .gt := ⟨fun _ => rfl, .inl rfl⟩

theorem Sys2Proof.Laws.EncodedLength.leq :
    Sys2Proof.Laws.EncodedLength.Statement .leq := ⟨fun _ => rfl, .inl rfl⟩

theorem Sys2Proof.Laws.EncodedLength.geq :
    Sys2Proof.Laws.EncodedLength.Statement .geq := ⟨fun _ => rfl, .inl rfl⟩

theorem Sys2Proof.Laws.EncodedLength.eq :
    Sys2Proof.Laws.EncodedLength.Statement .eq := ⟨fun _ => rfl, .inl rfl⟩

theorem Sys2Proof.Laws.EncodedLength.and :
    Sys2Proof.Laws.EncodedLength.Statement .and := ⟨fun _ => rfl, .inl rfl⟩

theorem Sys2Proof.Laws.EncodedLength.or :
    Sys2Proof.Laws.EncodedLength.Statement .or := ⟨fun _ => rfl, .inl rfl⟩

theorem Sys2Proof.Laws.EncodedLength.not :
    Sys2Proof.Laws.EncodedLength.Statement .not := ⟨fun _ => rfl, .inl rfl⟩

theorem Sys2Proof.Laws.EncodedLength.neg :
    Sys2Proof.Laws.EncodedLength.Statement .neg := ⟨fun _ => rfl, .inl rfl⟩

theorem Sys2Proof.Laws.EncodedLength.jmp :
    Sys2Proof.Laws.EncodedLength.Statement .jmp := ⟨fun _ => rfl, .inl rfl⟩

theorem Sys2Proof.Laws.EncodedLength.jmpt :
    Sys2Proof.Laws.EncodedLength.Statement .jmpt := ⟨fun _ => rfl, .inl rfl⟩

theorem Sys2Proof.Laws.EncodedLength.jmpf :
    Sys2Proof.Laws.EncodedLength.Statement .jmpf := ⟨fun _ => rfl, .inl rfl⟩

theorem Sys2Proof.Laws.EncodedLength.const (literal : Int) :
    Sys2Proof.Laws.EncodedLength.Statement (.const literal) := ⟨fun _ => rfl, .inr (.inl rfl)⟩

theorem Sys2Proof.Laws.EncodedLength.load :
    Sys2Proof.Laws.EncodedLength.Statement .load := ⟨fun _ => rfl, .inl rfl⟩

theorem Sys2Proof.Laws.EncodedLength.store (offset : Int) :
    Sys2Proof.Laws.EncodedLength.Statement (.store offset) := ⟨fun _ => rfl, .inr (.inl rfl)⟩

theorem Sys2Proof.Laws.EncodedLength.gload :
    Sys2Proof.Laws.EncodedLength.Statement .gload := ⟨fun _ => rfl, .inl rfl⟩

theorem Sys2Proof.Laws.EncodedLength.gstore (addr : Int) :
    Sys2Proof.Laws.EncodedLength.Statement (.gstore addr) := ⟨fun _ => rfl, .inr (.inl rfl)⟩

theorem Sys2Proof.Laws.EncodedLength.print :
    Sys2Proof.Laws.EncodedLength.Statement .print := ⟨fun _ => rfl, .inl rfl⟩

theorem Sys2Proof.Laws.EncodedLength.pop :
    Sys2Proof.Laws.EncodedLength.Statement .pop := ⟨fun _ => rfl, .inl rfl⟩

theorem Sys2Proof.Laws.EncodedLength.halt :
    Sys2Proof.Laws.EncodedLength.Statement .halt := ⟨fun _ => rfl, .inl rfl⟩

theorem Sys2Proof.Laws.EncodedLength.call (target argcount localcount : Int) :
    Sys2Proof.Laws.EncodedLength.Statement (.call target argcount localcount) := ⟨fun _ => rfl, .inr (.inr rfl)⟩

theorem Sys2Proof.Laws.EncodedLength.ret :
    Sys2Proof.Laws.EncodedLength.Statement .ret := ⟨fun _ => rfl, .inl rfl⟩
end

