-- ==== Sys2Proof/Laws/Step.lean ====
section
/-! SUPPORT. What taking a fault leaves, what fetching an instruction can answer, and what a step can do, each said once. -/

namespace Sys2Proof.Machine

variable {s t : State} {k : FaultKind}

theorem recordFault_of_inRange {c : Int} (h : fetch s s.pc = .ok c) :
    recordFault k s =
      { kind := some k, opcodeValid := true, opcode := c, pc := s.pc, sp := s.sp, fp := s.fp } := by
  simp only [recordFault, h]

theorem recordFault_of_outOfRange {j : FaultKind} (h : fetch s s.pc = .error j) :
    recordFault k s =
      { kind := some k, opcodeValid := false, opcode := 0, pc := s.pc, sp := s.sp, fp := s.fp } := by
  simp only [recordFault, h]

/-- The two places pc can be: outside the stream, where its fetch faults, or at an opcode cell (R58, R103). -/
theorem pc_cases (s : State) :
    (¬ PcInRange s ∧ fetch s s.pc = .error .outOfBoundsMemoryAccess) ∨
    (PcInRange s ∧ ∃ c, s.prog[s.pc.toNat]? = some c ∧ fetch s s.pc = .ok c) := by
  by_cases h : PcInRange s
  · obtain ⟨h0, h1⟩ := h
    have hl : s.pc.toNat < s.prog.length := by omega
    have hc : s.prog[s.pc.toNat]? = some s.prog[s.pc.toNat] := List.getElem?_eq_getElem hl
    exact .inr ⟨⟨h0, h1⟩, _, hc, fetch_of_inRange h0 hc⟩
  · refine .inl ⟨h, fetch_of_outOfRange ?_⟩
    simp only [PcInRange] at h
    omega

/-- What taking a fault leaves (R180, R181). -/
theorem takeFault_faultedFrom (k : FaultKind) (s : State) : FaultedFrom k s (takeFault k s) := by
  refine ⟨rfl, ?_, rfl, rfl, rfl, rfl, rfl, rfl, rfl, rfl, rfl⟩
  rw [takeFault_faultRec]
  rcases pc_cases s with ⟨hp, hf⟩ | ⟨hp, c, hc, hf⟩
  · rw [recordFault_of_outOfRange hf]
    exact ⟨rfl, rfl, rfl, rfl, fun h => absurd h hp, fun _ => ⟨rfl, rfl⟩⟩
  · rw [recordFault_of_inRange hf]
    exact ⟨rfl, rfl, rfl, rfl, fun _ => ⟨rfl, hc⟩, fun h => absurd hp h⟩

/-- The fetch of an instruction whose opcode cell is `c` (R100, R102, R103). -/
theorem fetchInstr_at {c : Int} (h0 : 0 ≤ s.pc) (h : s.prog[s.pc.toNat]? = some c) :
    fetchInstr s =
      match opcodeOf? s.params.opc c with
      | none => .error .unknownOpcode
      | some o =>
        match takeOperands o (s.prog.drop (s.pc.toNat + 1)) with
        | none => .error .outOfBoundsMemoryAccess
        | some r => .ok r.1 := by
  obtain ⟨hl, hc⟩ := List.getElem?_eq_some_iff.mp h
  rw [fetchInstr, if_neg (by omega), List.drop_eq_getElem_cons hl, hc, decode_cons]
  cases opcodeOf? s.params.opc c with
  | none => rfl
  | some o =>
    dsimp only
    cases takeOperands o (s.prog.drop (s.pc.toNat + 1)) <;> rfl

/-- The fetch of an instruction faults in no more than two ways (R102, R103). -/
theorem fetchInstr_error_kind (h : fetchInstr s = .error k) : k = .outOfBoundsMemoryAccess ∨ k = .unknownOpcode := by
  unfold fetchInstr at h
  split at h
  · cases h; exact .inl rfl
  · split at h
    · cases h
    · next e _ => cases h; cases e <;> simp [decodeFault]

theorem step_of_stopped (h : s.run ≠ .running) : step s = .next s := by
  cases hr : s.run <;> simp_all [step]

theorem step_of_running (h : s.run = .running) (hc : covered s = true) :
    step s = match fetchInstr s with
      | .error k => .next (takeFault k s)
      | .ok i => exec i s := by
  cases hf : fetchInstr s <;> simp only [step, h, hc, hf]

/-- Everything a step that answers `t` can have done: nothing outside `RUNNING`, a fault of the fetch, or the fetched
instruction (R100, R101). -/
theorem step_cases (h : step s = .next t) :
    (s.run ≠ .running ∧ t = s) ∨
    (s.run = .running ∧ covered s = true ∧
      ((∃ k, fetchInstr s = .error k ∧ t = takeFault k s) ∨ ∃ i, fetchInstr s = .ok i ∧ exec i s = .next t)) := by
  by_cases hr : s.run = .running
  · cases hc : covered s with
    | false => simp [step, hr, hc] at h
    | true =>
      rw [step_of_running hr hc] at h
      cases hf : fetchInstr s with
      | error k =>
        rw [hf] at h
        cases h
        exact .inr ⟨hr, rfl, .inl ⟨k, rfl, rfl⟩⟩
      | ok i =>
        rw [hf] at h
        exact .inr ⟨hr, rfl, .inr ⟨i, rfl, h⟩⟩
  · rw [step_of_stopped hr] at h
    cases h
    exact .inl ⟨hr, rfl⟩

end Sys2Proof.Machine
end

