-- ==== Sys2Proof/Tests/Slice0.lean ====
section
/-! SUPPORT. Tests. The expected values are the spec's own: the vectors V1 to V175 and scenarios of 95_test_vectors.md, the
encodings of R85 and R92, the bounds of R6. The last part gives, for every statement with hypotheses, a concrete state and
operands that meet them all, at the boundary values of its clauses. -/

namespace Sys2Proof.Tests

open Sys2Proof Sys2Proof.Machine

section Helpers

/-- The start state of a vector of section 2 of 95_test_vectors.md: the stream as given, pc at `p`, the stack `st`
(bottom first), fp as given. -/
def unit (stream : List Int) (p : Nat) (st : List Int) (fp : Int) : State :=
  { State.reset with
    pc := (p : Int)
    sp := (st.length : Int) - 1
    fp := fp
    prog := stream
    stack := st.zipIdx.map (fun c => (c.2, c.1)) }

/-- The stream of a vector: `p` HALT cells, the given cells, one HALT. -/
def vector (p : Nat) (cells st : List Int) (fp : Int) : State :=
  unit (List.replicate p 25 ++ cells ++ [25]) p st fp

/-- One step completes, still RUNNING, with pc, sp, fp and the listed stack cells as given. -/
def completes (s : State) (pc sp fp : Int) (st : List Int) : Bool :=
  match step s with
  | .next t =>
    decide (t.run = .running ∧ t.pc = pc ∧ t.sp = sp ∧ t.fp = fp ∧
      (List.range st.length).map t.stack.cellAt = st.map some)
  | _ => false

/-- One step faults with this kind and opcode (`none`: opcode not valid), at the pc, sp and fp of the fetch, and changes
nothing but `run` and the record. -/
def faults (s : State) (k : FaultKind) (opcode : Option Int) : Bool :=
  match step s with
  | .next t =>
    decide (t = { s with
      run := .faulted
      faultRec :=
        { kind := some k, opcodeValid := opcode.isSome, opcode := opcode.getD 0, pc := s.pc, sp := s.sp, fp := s.fp } })
  | _ => false

/-- The invariant of a running state, from a check that `decide` runs. -/
theorem inv_of_check {s : State} (hr : s.run = .running) (hf : s.faultRec = FaultRecord.clear)
    (h : covered s = true ∧ cellFits s.params.width s.pc = true ∧ cellFits s.params.width s.fp = true ∧
      (-1 ≤ s.sp ∧ s.sp ≤ (s.params.stackCap : Int) - 1) ∧
      (s.stack.wf = true ∧ s.stack.within s.params.stackCap = true ∧ s.stack.fits s.params.width = true) ∧
      (s.globals.wf = true ∧ s.globals.within s.params.globalSize = true ∧ s.globals.fits s.params.width = true) ∧
      s.out.all (cellFits s.params.width) = true) : s.Inv :=
  let ⟨hc, hpc, hfp, ⟨h1, h2⟩, ⟨h3, h4, h5⟩, ⟨h6, h7, h8⟩, ho⟩ := h
  ⟨hc, hpc, hfp, h1, h2, h3, h4, h5, h6, h7, h8, ho, fun _ => hf, fun e => by rw [hr] at e; cases e⟩

end Helpers


section WellFormed

/-- R5, R6. -/
theorem test_wellFormed_accepts_default :
    Config.params.wf = true ∧ progLenOk 32 [] = true ∧ progCellsOk 32 [] = true := by
  decide

/-- R6: the least legal width and the next below. -/
theorem test_wellFormed_refuses_width :
    { Config.params with width := 8 }.widthOk = true ∧ { Config.params with width := 7 }.widthOk = false ∧
    { Config.params with width := 7 }.wf = false := by
  decide

/-- R6. -/
theorem test_wellFormed_refuses_stackCap_zero :
    { Config.params with stackCap := 0 }.stackCapOk = false ∧ { Config.params with stackCap := 0 }.wf = false := by
  decide

/-- R6: the last legal value and the next, at W = 32 and at W = 8. -/
theorem test_wellFormed_refuses_stackCap_large :
    { Config.params with stackCap := 2147483647 }.stackCapOk = true ∧
    { Config.params with stackCap := 2147483648 }.stackCapOk = false ∧
    { Config.params with width := 8, stackCap := 128 }.stackCapOk = false := by
  decide

/-- R6. -/
theorem test_wellFormed_refuses_globalSize_zero :
    { Config.params with globalSize := 0 }.globalSizeOk = false ∧ { Config.params with globalSize := 0 }.wf = false := by
  decide

/-- R6: the last legal value and the next. -/
theorem test_wellFormed_refuses_globalSize_large :
    { Config.params with globalSize := 2147483647 }.globalSizeOk = true ∧
    { Config.params with globalSize := 2147483648 }.globalSizeOk = false := by
  decide

/-- R6: RET with ADD's value. -/
theorem test_wellFormed_refuses_opc_not_injective :
    { Config.opc with ret := 1 }.injective = false ∧
    { Config.params with opc := { Config.opc with ret := 1 } }.wf = false := by
  decide

/-- R6: the last value of a cell and the next, at W = 8 and at W = 32. -/
theorem test_wellFormed_refuses_opc_not_a_cell :
    ({ Config.opc with ret := 127 }.fits 8 = true ∧ { Config.opc with ret := 128 }.fits 8 = false) ∧
    { Config.params with opc := { Config.opc with ret := 2147483648 } }.wf = false := by
  decide

/-- R20: pc and fp hold one cell. -/
theorem test_wellFormed_refuses_resets_not_cells :
    { Config.params with pcReset := -2147483648 }.resetsOk = true ∧
    { Config.params with pcReset := -2147483649 }.resetsOk = false ∧
    { Config.params with fpReset := 2147483648 }.wf = false := by
  decide

/-- R41: every cell of the stream is `W` bits. -/
theorem test_wellFormed_refuses_stream_not_of_cells :
    progCellsOk 8 [127, -128] = true ∧ progCellsOk 8 [18, 128] = false ∧
    covered { State.reset with prog := [18, 2147483648] } = false := by
  decide

/-- R83. -/
theorem test_wellFormed_refuses_operand_not_a_cell :
    (Instr.const (-128)).wf 8 = true ∧ (Instr.call 0 128 0).wf 8 = false := by
  decide

/-- R6: the last legal program length and the next. -/
theorem test_wellFormed_progLen_bound (prog : List Int) :
    (prog.length = 2147483644 → progLenOk 32 prog = true) ∧ (prog.length = 2147483645 → progLenOk 32 prog = false) := by
  constructor <;> intro h <;> simp [progLenOk, h]

end WellFormed

section Decoding

/-- R85: the cell 1. -/
theorem test_decode_add : decodeTableWord 32 1 = some .add := by decide

/-- R85: the cell 2. -/
theorem test_decode_sub : decodeTableWord 32 2 = some .sub := by decide

/-- R85: the cell 3. -/
theorem test_decode_mul : decodeTableWord 32 3 = some .mul := by decide

/-- R85: the cell 4. -/
theorem test_decode_div : decodeTableWord 32 4 = some .div := by decide

/-- R85: the cell 5. -/
theorem test_decode_mod : decodeTableWord 32 5 = some .mod := by decide

/-- R85: the cell 6. -/
theorem test_decode_lt : decodeTableWord 32 6 = some .lt := by decide

/-- R85: the cell 7. -/
theorem test_decode_gt : decodeTableWord 32 7 = some .gt := by decide

/-- R85: the cell 8. -/
theorem test_decode_leq : decodeTableWord 32 8 = some .leq := by decide

/-- R85: the cell 9. -/
theorem test_decode_geq : decodeTableWord 32 9 = some .geq := by decide

/-- R85: the cell 10. -/
theorem test_decode_eq : decodeTableWord 32 10 = some .eq := by decide

/-- R85: the cell 11. -/
theorem test_decode_and : decodeTableWord 32 11 = some .and := by decide

/-- R85: the cell 12. -/
theorem test_decode_or : decodeTableWord 32 12 = some .or := by decide

/-- R85: the cell 13. -/
theorem test_decode_not : decodeTableWord 32 13 = some .not := by decide

/-- R85: the cell 14. -/
theorem test_decode_neg : decodeTableWord 32 14 = some .neg := by decide

/-- R85: the cell 15. -/
theorem test_decode_jmp : decodeTableWord 32 15 = some .jmp := by decide

/-- R85: the cell 16. -/
theorem test_decode_jmpt : decodeTableWord 32 16 = some .jmpt := by decide

/-- R85: the cell 17. -/
theorem test_decode_jmpf : decodeTableWord 32 17 = some .jmpf := by decide

/-- R81, R83, R85: opcode cell 18, then the inline cell -2. -/
theorem test_decode_const :
    decodeTableWord 64 0xFFFFFFFE00000012 = some (.const (-2)) ∧ decodeTableWord 32 18 = some (.const 0) := by
  decide

/-- R85: the cell 19. -/
theorem test_decode_load : decodeTableWord 32 19 = some .load := by decide

/-- R81, R83, R85: opcode cell 20, then the inline cell -2. -/
theorem test_decode_store :
    decodeTableWord 64 0xFFFFFFFE00000014 = some (.store (-2)) ∧ decodeTableWord 32 20 = some (.store 0) := by
  decide

/-- R85: the cell 21. -/
theorem test_decode_gload : decodeTableWord 32 21 = some .gload := by decide

/-- R81, R83, R85: opcode cell 22, then the inline cell -2. -/
theorem test_decode_gstore :
    decodeTableWord 64 0xFFFFFFFE00000016 = some (.gstore (-2)) ∧ decodeTableWord 32 22 = some (.gstore 0) := by
  decide

/-- R85: the cell 23. -/
theorem test_decode_print : decodeTableWord 32 23 = some .print := by decide

/-- R85: the cell 24. -/
theorem test_decode_pop : decodeTableWord 32 24 = some .pop := by decide

/-- R85: the cell 25. -/
theorem test_decode_halt : decodeTableWord 32 25 = some .halt := by decide

/-- R92: the cells 26, 10, 2, 1. -/
theorem test_decode_call :
    decodeTableWord 128 0x1000000020000000A0000001A = some (.call 10 2 1) ∧ decodeTableWord 32 26 = some (.call 0 0 0) := by
  decide

/-- R85: the cell 27. -/
theorem test_decode_ret : decodeTableWord 32 27 = some .ret := by decide

/-- R87: 0, 28, -1, and ADD's value with the top bit set. -/
theorem test_decode_refuses_unknown :
    decodeTableWord 32 0 = none ∧ decodeTableWord 32 28 = none ∧ decodeTableWord 32 0xFFFFFFFF = none ∧
    decodeTableWord 32 0x80000001 = none := by
  decide

/-- R87, R103. -/
theorem test_decode_names_the_refusal :
    decode Config.params.opc [] = .error .noOpcodeCell ∧ decode Config.params.opc [28] = .error (.unknownOpcode 28) ∧
    decode Config.params.opc [18] = .error (.missingOperand .const) ∧
    decode Config.params.opc [26, 10, 2] = .error (.missingOperand .call) := by
  decide

/-- R92. -/
theorem test_encode_call : encode Config.params.opc (.call 10 2 1) = [26, 10, 2, 1] := by decide

/-- R90. -/
theorem test_assembly :
    assembly (.const (-2)) = "CONST -2" ∧ assembly (.call 10 2 1) = "CALL 10 2 1" ∧ assembly .add = "ADD" := by
  decide

/-- CONST 7 (R140) as the first instruction after reset. -/
theorem test_first_step_after_reset :
    (∃ t, step (State.reset.withFetchWord 64 0x700000012) = .next t ∧ t.sp = 0 ∧ t.stack.cellAt 0 = some 7) := by
  exact ⟨_, rfl, by decide, by decide⟩

end Decoding

section Steps

/-- V2, V3. -/
theorem test_add :
    completes (vector 0 [1] [9, 2, 3] 0) 1 1 0 [9, 5] = true ∧
    completes (vector 0 [1] [2147483647, 1] 0) 1 0 0 [-2147483648] = true := by
  decide

/-- V5, V6. -/
theorem test_add_underflow :
    faults (vector 0 [1] [5] 0) .stackUnderflow (some 1) = true ∧
    faults (vector 0 [1] [] 0) .stackUnderflow (some 1) = true := by
  decide

/-- V8, V9. -/
theorem test_sub :
    completes (vector 0 [2] [3, 10] 0) 1 0 0 [-7] = true ∧
    completes (vector 0 [2] [-2147483648, 1] 0) 1 0 0 [2147483647] = true := by
  decide

/-- V11, V12. -/
theorem test_mul :
    completes (vector 0 [3] [-3, 4] 0) 1 0 0 [-12] = true ∧
    completes (vector 0 [3] [65536, 65536] 0) 1 0 0 [0] = true := by
  decide

/-- V16, V22. -/
theorem test_div :
    completes (vector 0 [4] [7, -2] 0) 1 0 0 [-3] = true ∧
    completes (vector 0 [4] [-2147483648, -1] 0) 1 0 0 [-2147483648] = true := by
  decide

/-- V20, V24. -/
theorem test_div_faults :
    faults (vector 0 [4] [7, 0] 0) .arithmeticFault (some 4) = true ∧
    faults (vector 0 [4] [0] 0) .stackUnderflow (some 4) = true := by
  decide

/-- V26, V27, V32. -/
theorem test_mod :
    completes (vector 0 [5] [-7, 3] 0) 1 0 0 [-1] = true ∧
    completes (vector 0 [5] [7, -3] 0) 1 0 0 [1] = true ∧
    completes (vector 0 [5] [-2147483648, -1] 0) 1 0 0 [0] = true := by
  decide

/-- V31, V33. -/
theorem test_mod_faults :
    faults (vector 0 [5] [7, 0] 0) .arithmeticFault (some 5) = true ∧
    faults (vector 0 [5] [3] 0) .stackUnderflow (some 5) = true := by
  decide

/-- V34, V36. -/
theorem test_neg :
    completes (vector 0 [14] [5] 0) 1 0 0 [-5] = true ∧
    completes (vector 0 [14] [-2147483648] 0) 1 0 0 [-2147483648] = true := by
  decide

/-- V41, V42. -/
theorem test_lt :
    completes (vector 0 [6] [-1, 0] 0) 1 0 0 [1] = true ∧
    completes (vector 0 [6] [2147483647, -2147483648] 0) 1 0 0 [0] = true := by
  decide

/-- V45, V46. -/
theorem test_gt :
    completes (vector 0 [7] [3, 3] 0) 1 0 0 [0] = true ∧
    completes (vector 0 [7] [0, -1] 0) 1 0 0 [1] = true := by
  decide

/-- V47, V48. -/
theorem test_leq :
    completes (vector 0 [8] [3, 3] 0) 1 0 0 [1] = true ∧
    completes (vector 0 [8] [4, 3] 0) 1 0 0 [0] = true := by
  decide

/-- V50, V51. -/
theorem test_geq :
    completes (vector 0 [9] [3, 3] 0) 1 0 0 [1] = true ∧
    completes (vector 0 [9] [2, 3] 0) 1 0 0 [0] = true := by
  decide

/-- V53, V54. -/
theorem test_eq :
    completes (vector 0 [10] [5, 5] 0) 1 0 0 [1] = true ∧
    completes (vector 0 [10] [5, -5] 0) 1 0 0 [0] = true := by
  decide

/-- V55. -/
theorem test_eq_underflow : faults (vector 0 [10] [7] 0) .stackUnderflow (some 10) = true := by decide

/-- V56, V60. -/
theorem test_and :
    completes (vector 0 [11] [1, 1] 0) 1 0 0 [1] = true ∧
    completes (vector 0 [11] [3, 3] 0) 1 0 0 [0] = true := by
  decide

/-- V64, V65. -/
theorem test_or :
    completes (vector 0 [12] [2, 3] 0) 1 0 0 [0] = true ∧
    completes (vector 0 [12] [1, 7] 0) 1 0 0 [1] = true := by
  decide

/-- V67, V68, V69. -/
theorem test_not :
    completes (vector 0 [13] [1] 0) 1 0 0 [0] = true ∧
    completes (vector 0 [13] [0] 0) 1 0 0 [1] = true ∧
    completes (vector 0 [13] [7] 0) 1 0 0 [7] = true := by
  decide

/-- V71. -/
theorem test_not_underflow : faults (vector 0 [13] [] 0) .stackUnderflow (some 13) = true := by decide

/-- 95_test_vectors.md section 2.1: the arithmetic at W = 8. -/
theorem test_alu_at_width_8 :
    aluAdd 8 127 1 = -128 ∧ aluAdd 8 100 100 = -56 ∧ aluSub 8 (-128) 1 = 127 ∧ aluMul 8 16 16 = 0 ∧
    aluNeg 8 (-128) = -128 ∧ aluDiv 8 (-128) (-1) = -128 := by
  decide

/-- The same as one step of a unit whose `W` is 8 (R5): ADD of 127 and 1 (GLOBAL_SIZE 300 would be outside R6). -/
theorem test_step_at_width_8 :
    completes { vector 0 [1] [127, 1] 0 with params := { Config.params with width := 8, globalSize := 100 } } 1 0 0 [-128] =
      true := by
  decide

/-- V73. -/
theorem test_const : completes (vector 0 [18, -2] [4] 0) 2 1 0 [4, -2] = true := by decide

/-- V75 (a full stack), V76 (literal cell missing). -/
theorem test_const_faults :
    faults (unit [18, 7, 25] 0 (List.replicate 100 1) 0) .stackOverflow (some 18) = true ∧
    faults (unit [18] 0 [] 0) .outOfBoundsMemoryAccess (some 18) = true := by
  decide

/-- V77; the cell popped keeps its value (R31). -/
theorem test_pop : completes (vector 0 [24] [4, 9] 0) 1 0 0 [4, 9] = true := by decide

/-- V78. -/
theorem test_pop_underflow : faults (vector 0 [24] [] 0) .stackUnderflow (some 24) = true := by decide

/-- V79, V81. -/
theorem test_load :
    completes (vector 0 [19] [10, 32, 2, 7, 0, 99, 0] 4) 1 6 4 [10, 32, 2, 7, 0, 99, 99] = true ∧
    completes (vector 0 [19] [10, 32, 2, 7, 0, 99, -2] 4) 1 6 4 [10, 32, 2, 7, 0, 99, 10] = true := by
  decide

/-- V82, V86, V89. -/
theorem test_load_faults :
    faults (vector 0 [19] [10, 32, 2, 7, 0, 99, -3] 4) .outOfBoundsMemoryAccess (some 19) = true ∧
    faults (vector 0 [19] [10, 32, 2, 7, 0, 99, 95] 4) .outOfBoundsMemoryAccess (some 19) = true ∧
    faults (vector 0 [19] [0] 2147483647) .outOfBoundsMemoryAccess (some 19) = true := by
  decide

/-- V96, V99. -/
theorem test_store :
    completes (vector 0 [20, 2] [10, 32, 2, 7, 0, 99, 42] 4) 2 5 4 [10, 32, 2, 42, 0, 99] = true ∧
    completes (vector 0 [20, 5] [10, 32, 2, 7, 0, 99, 42] 4) 2 5 4 [42, 32, 2, 7, 0, 99] = true := by
  decide

/-- V100, V103, V105. -/
theorem test_store_faults :
    faults (vector 0 [20, 6] [10, 32, 2, 7, 0, 99, 42] 4) .outOfBoundsMemoryAccess (some 20) = true ∧
    faults (vector 0 [20, -2147483648] [42] 2147483647) .outOfBoundsMemoryAccess (some 20) = true ∧
    faults (unit [20] 0 [] 4) .outOfBoundsMemoryAccess (some 20) = true := by
  decide

/-- V108. -/
theorem test_gload : completes { vector 0 [21] [299] 0 with globals := [(299, -4)] } 1 0 0 [-4] = true := by decide

/-- V109, V110, V112. -/
theorem test_gload_faults :
    faults (vector 0 [21] [300] 0) .outOfBoundsMemoryAccess (some 21) = true ∧
    faults (vector 0 [21] [-1] 0) .outOfBoundsMemoryAccess (some 21) = true ∧
    faults (vector 0 [21] [] 0) .stackUnderflow (some 21) = true := by
  decide

/-- V119. -/
theorem test_gstore :
    (match step { vector 0 [22, 0] [9] 0 with globals := [(0, 1), (1, 2)] } with
    | .next t => decide (t.globals = [(0, 9), (1, 2)] ∧ t.sp = -1 ∧ t.pc = 2)
    | _ => false) = true := by
  decide

/-- V115, V116, V118. -/
theorem test_gstore_faults :
    faults (vector 0 [22, 300] [55] 0) .outOfBoundsMemoryAccess (some 22) = true ∧
    faults (vector 0 [22, -1] [55] 0) .outOfBoundsMemoryAccess (some 22) = true ∧
    faults (unit [22] 0 [55] 0) .outOfBoundsMemoryAccess (some 22) = true := by
  decide

/-- V120, V122. -/
theorem test_jmp :
    completes (vector 36 [15] [8] 0) 8 (-1) 0 [8] = true ∧
    completes (vector 3 [15] [-5] 0) (-5) (-1) 0 [-5] = true := by
  decide

/-- V125, V126, V127. -/
theorem test_jmpt :
    completes (vector 16 [16] [1, 37] 0) 37 (-1) 0 [1, 37] = true ∧
    completes (vector 16 [16] [0, 37] 0) 17 (-1) 0 [0, 37] = true ∧
    completes (vector 16 [16] [5, 37] 0) 17 (-1) 0 [5, 37] = true := by
  decide

/-- V129. -/
theorem test_jmpt_underflow : faults (vector 16 [16] [37] 0) .stackUnderflow (some 16) = true := by decide

/-- V131, V132, V133. -/
theorem test_jmpf :
    completes (vector 9 [17] [0, 20] 0) 20 (-1) 0 [0, 20] = true ∧
    completes (vector 9 [17] [1, 20] 0) 10 (-1) 0 [1, 20] = true ∧
    completes (vector 9 [17] [7, 20] 0) 10 (-1) 0 [7, 20] = true := by
  decide

/-- V135, V138. -/
theorem test_call :
    completes (vector 4 [26, 10, 2, 1] [10, 32] 0) 10 5 4 [10, 32, 2, 7, 0] = true ∧
    completes (vector 4 [26, 10, 0, -2] [5] 0) 10 1 3 [5, 0, 7, 0] = true := by
  decide

/-- V139, V144, and V141's overflow (98 cells in use). -/
theorem test_call_faults :
    faults (vector 4 [26, 10, 0, -6] [5] 0) .stackUnderflow (some 26) = true ∧
    faults (unit [25, 25, 25, 25, 26, 10, 2] 4 [10, 32] 0) .outOfBoundsMemoryAccess (some 26) = true ∧
    faults (vector 4 [26, 10, 0, 0] (List.replicate 98 1) 0) .stackOverflow (some 26) = true := by
  decide

/-- V147, V148, V160. -/
theorem test_ret :
    completes (vector 22 [27] [10, 32, 2, 7, 0, 42, 42] 4) 8 0 0 [42] = true ∧
    completes (vector 12 [27] [0, 9, -5, 3] 2) 10 0 (-5) [3] = true ∧
    completes (vector 3 [27] [0, 2147483647, 0, 9] 2) (-2147483648) 0 0 [9] = true := by
  decide

/-- V150, V152, V156, V158. -/
theorem test_ret_faults :
    faults (vector 3 [27] [5] 0) .stackUnderflow (some 27) = true ∧
    faults (vector 3 [27] [5] 100) .stackOverflow (some 27) = true ∧
    faults (vector 3 [27] [5, 7, 0, 9] 2) .stackUnderflow (some 27) = true ∧
    faults (vector 3 [27] [-100, 7, 0, 9] 2) .stackOverflow (some 27) = true := by
  decide

/-- V163. -/
theorem test_print :
    (match step (vector 0 [23] [3, -5] 0) with
    | .next t => decide (t.out = [-5] ∧ t.sp = 0 ∧ t.pc = 1)
    | _ => false) = true := by
  decide

/-- V165: nothing is emitted. -/
theorem test_print_underflow : faults (vector 0 [23] [] 0) .stackUnderflow (some 23) = true := by decide

/-- V166. -/
theorem test_halt :
    step (vector 0 [25] [1, 2] 3) = .next { vector 0 [25] [1, 2] 3 with run := .halted, pc := 1 } := by
  rfl

/-- V168, V170, V172, V174. -/
theorem test_fetch_faults :
    faults (unit [0, 25] 0 [4] 0) .unknownOpcode (some 0) = true ∧
    faults (unit [-1, 25] 0 [4] 0) .unknownOpcode (some (-1)) = true ∧
    faults (unit [25, 25] 2 [4] 0) .outOfBoundsMemoryAccess (none) = true ∧
    faults (unit [] 0 [] 0) .outOfBoundsMemoryAccess (none) = true := by
  decide

/-- V173. -/
theorem test_fetch_negative_pc :
    faults { unit [25, 25] 0 [4] 0 with pc := -5 } .outOfBoundsMemoryAccess none = true := by
  decide

/-- R193, R102: the mnemonic is decoded from the opcode cell, also when the inline cell is missing (R103). -/
theorem test_observe_before_needs_only_the_opcode_cell :
    observeBefore (unit [18, 7] 0 [] 0) = some "CONST" ∧ observeBefore (unit [18] 0 [] 0) = some "CONST" ∧
    observeBefore (unit [28] 0 [] 0) = none ∧ observeBefore (unit [] 0 [] 0) = none := by
  decide

end Steps

section Witnesses

/-- Meets the hypotheses of ResetStatesHaveTheInvariant. -/
theorem witness_ResetStatesHaveTheInvariant :
    Config.params.wf = true ∧ progLenOk 32 [25] = true ∧ progCellsOk 32 [25] = true :=
  by decide

/-- Meets the hypotheses of StatusPortShowsCodes. -/
theorem witness_StatusPortShowsCodes :
    State.reset.run ≠ .faulted ∧ (takeFault .stackUnderflow State.reset).run = .faulted :=
  by decide

/-- Meets the hypotheses of ReadBackOnlyWhenStopped. -/
theorem witness_ReadBackOnlyWhenStopped :
    State.reset.run = .running ∧ (State.reset.setRun .halted).run ≠ .running :=
  by decide

/-- Meets the hypotheses of EveryStepKeepsTheInvariant: a step that completes and one that faults. -/
theorem witness_EveryStepKeepsTheInvariant :
    (vector 0 [1] [2, 3] 0).Inv ∧
    (∃ t, step (vector 0 [1] [2, 3] 0) = .next t) ∧
    (vector 0 [1] [5] 0).Inv ∧
    ∃ t, step (vector 0 [1] [5] 0) = .next t :=
  ⟨inv_of_check rfl rfl (by decide), ⟨_, rfl⟩, inv_of_check rfl rfl (by decide), ⟨_, rfl⟩⟩

/-- Meets the hypotheses of ReachableStackPointerInRange. -/
theorem witness_ReachableStackPointerInRange :
    Config.params.wf = true ∧
    progLenOk 32 [18, 7, 25] = true ∧
    progCellsOk 32 [18, 7, 25] = true ∧
    ∃ t, Sys2Proof.core.run 2 (State.atReset Config.params [18, 7, 25] 0) = .next t :=
  ⟨by decide, by decide, by decide, _, rfl⟩

/-- Meets the hypotheses of StepNeverChangesTheProgram. -/
theorem witness_StepNeverChangesTheProgram :
    ∃ t, step (vector 0 [22, 7] [55] 0) = .next t :=
  ⟨_, rfl⟩

/-- Meets the hypotheses of FaultsArePrecise. -/
theorem witness_FaultsArePrecise :
    (vector 0 [4] [7, 0] 0).run = .running ∧ ∃ t, step (vector 0 [4] [7, 0] 0) = .next t ∧ t.run = .faulted :=
  ⟨rfl, _, rfl, rfl⟩

/-- Meets the hypotheses of FaultTableDecidesEveryInstruction: rows that name a fault and rows that name none. -/
theorem witness_FaultTableDecidesEveryInstruction :
    (vector 0 [4] [7, 0] 0).Inv ∧
    faultTable .div (vector 0 [4] [7, 0] 0) = some .arithmeticFault ∧
    (vector 0 [4] [7, 2] 0).Inv ∧
    faultTable .div (vector 0 [4] [7, 2] 0) = none ∧
    (vector 3 [27] [-100, 7, 0, 9] 2).Inv ∧
    faultTable .ret (vector 3 [27] [-100, 7, 0, 9] 2) = some .stackOverflow ∧
    (vector 3 [27] [-99, 7, 0, 9] 2).Inv ∧
    faultTable .ret (vector 3 [27] [-99, 7, 0, 9] 2) = none :=
  ⟨inv_of_check rfl rfl (by decide), by decide, inv_of_check rfl rfl (by decide), by decide, inv_of_check rfl rfl (by decide), by decide, inv_of_check rfl rfl (by decide), by decide⟩

/-- Meets the hypotheses of HaltIsTheOnlyCleanEnd. -/
theorem witness_HaltIsTheOnlyCleanEnd :
    (vector 0 [25] [1] 0).run = .running ∧
    (∃ t, step (vector 0 [25] [1] 0) = .next t ∧ t.run = .halted) ∧
    ∃ t, step (vector 0 [24] [1] 0) = .next t ∧ t.run ≠ .halted :=
  ⟨rfl, ⟨_, rfl, rfl⟩, _, rfl, by decide⟩

/-- Meets the hypotheses of OutputGrowsOnlyByPrint. -/
theorem witness_OutputGrowsOnlyByPrint :
    (∃ t, step (vector 0 [23] [5] 0) = .next t ∧ t.out = [5]) ∧
    ∃ t, step (vector 0 [23] [] 0) = .next t ∧ t.out = [] :=
  ⟨⟨_, rfl, by decide⟩, _, rfl, rfl⟩

/-- Meets the hypotheses of StoppedUnitStaysAsItIs. -/
theorem witness_StoppedUnitStaysAsItIs :
    (State.reset.setRun .halted).run ≠ .running ∧ (takeFault .unknownOpcode State.reset).run ≠ .running :=
  by decide

/-- Meets the hypotheses of StepIsTotalInsideBounds. -/
theorem witness_StepIsTotalInsideBounds :
    covered State.reset = true :=
  by decide

/-- Meets the hypotheses of StepRefusedOutsideBounds. -/
theorem witness_StepRefusedOutsideBounds :
    { State.reset with params := { Config.params with stackCap := 0 } }.run = .running ∧
    covered { State.reset with params := { Config.params with stackCap := 0 } } = false :=
  by decide

/-- Meets the hypotheses of GlobalsSeenOnlyByGload. -/
theorem witness_GlobalsSeenOnlyByGload :
    (Instr.gstore 7 ≠ .gload) ∧
    ∃ t, exec (.gstore 7) (vector 0 [22, 7] [55] 0) = .next t :=
  ⟨by decide, _, rfl⟩

/-- Meets the hypotheses of StepRunsTheDecodedInstruction. -/
theorem witness_StepRunsTheDecodedInstruction :
    (vector 4 [26, 10, 2, 1] [10, 32] 0).run = .running ∧
    covered (vector 4 [26, 10, 2, 1] [10, 32] 0) = true ∧
    0 ≤ (vector 4 [26, 10, 2, 1] [10, 32] 0).pc ∧
    decode Config.params.opc ((vector 4 [26, 10, 2, 1] [10, 32] 0).prog.drop 4) = .ok (.call 10 2 1, [25]) :=
  by decide

/-- Meets the hypotheses of FetchReadsCellByCell. -/
theorem witness_FetchReadsCellByCell :
    fetchInstr (vector 4 [26, 10, 2, 1] [] 0) = .ok (.call 10 2 1) ∧
    fetchInstr (unit [18] 0 [] 0) = .error .outOfBoundsMemoryAccess ∧
    fetchInstr (unit [0] 0 [] 0) = .error .unknownOpcode :=
  by decide

/-- Meets the hypotheses of DispatchDependsOnlyOnTheStream. -/
theorem witness_DispatchDependsOnlyOnTheStream :
    (vector 0 [1] [2, 3] 0).pc = (vector 0 [1] [] 9).pc ∧
    (vector 0 [1] [2, 3] 0).prog = (vector 0 [1] [] 9).prog ∧
    (vector 0 [1] [2, 3] 0).params = (vector 0 [1] [] 9).params ∧
    vector 0 [1] [2, 3] 0 ≠ vector 0 [1] [] 9 :=
  by decide

/-- Meets the hypotheses of OpcodeFetchOutsideTheStreamFaults: pc at PROG_LEN and at -1; PROG_LEN - 1 is in range. -/
theorem witness_OpcodeFetchOutsideTheStreamFaults :
    (unit [25, 25] 2 [4] 0).run = .running ∧
    covered (unit [25, 25] 2 [4] 0) = true ∧
    ¬ PcInRange (unit [25, 25] 2 [4] 0) ∧
    covered { unit [25, 25] 0 [4] 0 with pc := -1 } = true ∧
    ¬ PcInRange { unit [25, 25] 0 [4] 0 with pc := -1 } ∧
    PcInRange (unit [25, 25] 1 [4] 0) :=
  ⟨rfl, by decide, fun h => absurd h.2 (by decide), by decide, fun h => absurd h.1 (by decide), by decide, by decide⟩

/-- Meets the hypotheses of FetchPresentsOnlyStreamIndices: a whole fetch, and one that faults after two cells (R41, R103). -/
theorem witness_FetchPresentsOnlyStreamIndices :
    (vector 4 [26, 10, 2, 1] [] 0).run = .running ∧
    fetchInstr (vector 4 [26, 10, 2, 1] [] 0) = .ok (.call 10 2 1) ∧
    pmAddrs (vector 4 [26, 10, 2, 1] [] 0) = [4, 5, 6, 7] ∧
    pmAddrs (unit [26, 10] 0 [] 0) = [0, 1] ∧
    (State.reset.setRun .halted).run ≠ .running :=
  by decide

/-- Meets the hypotheses of UnknownOpcodeFaultsWithTheCell. -/
theorem witness_UnknownOpcodeFaultsWithTheCell :
    (unit [28] 0 [4] 0).run = .running ∧
    covered (unit [28] 0 [4] 0) = true ∧
    0 ≤ (unit [28] 0 [4] 0).pc ∧
    (unit [28] 0 [4] 0).prog[(unit [28] 0 [4] 0).pc.toNat]? = some 28 ∧
    (∀ o, (unit [28] 0 [4] 0).params.opc.code o ≠ 28) ∧
    ∃ t, step (unit [28] 0 [4] 0) = .next t ∧ t.run = .faulted ∧ t.faultRec.kind = some .unknownOpcode :=
  ⟨rfl, by decide, by decide, by decide, fun o => by cases o <;> decide, _, rfl, rfl, rfl⟩

/-- Meets the hypotheses of MissingOperandFaultsBeforeTheStack. -/
theorem witness_MissingOperandFaultsBeforeTheStack :
    OperandCellMissing .const (unit [18] 0 [] 0) ∧
    OperandCellMissing .call (unit [26, 10, 2] 0 [] 0) :=
  ⟨⟨rfl, by decide, by decide, by decide, by decide⟩, ⟨rfl, by decide, by decide, by decide, by decide⟩⟩

/-- Meets the hypotheses of DecodeOfEncodeIsTheInstruction. -/
theorem witness_DecodeOfEncodeIsTheInstruction :
    Config.opc.injective = true ∧ Config.opc.fits 32 = true ∧ (Instr.call 10 (-2) 2147483647).wf 32 = true :=
  by decide

/-- Meets the hypotheses of EncodeOfDecodeIsTheCells. -/
theorem witness_EncodeOfDecodeIsTheCells :
    decode Config.opc [26, 10, 2, 1, 25] = .ok (.call 10 2 1, [25]) :=
  by decide

/-- Meets the hypotheses of PopReadsTheTopAndKeepsIt: both clauses at their boundary. -/
theorem witness_PopReadsTheTopAndKeepsIt :
    (vector 0 [24] [] 0).sp = -1 ∧ (vector 0 [24] [9] 0).sp = 0 :=
  by decide

/-- Meets the hypotheses of PushWritesTheNewTop: the last stack with room, the full stack, the empty stack. -/
theorem witness_PushWritesTheNewTop :
    ({ unit [25] 0 [] 0 with sp := 99 }).sp + 1 > (({ unit [25] 0 [] 0 with sp := 99 }).params.stackCap : Int) - 1 ∧
    ({ unit [25] 0 [] 0 with sp := 98 }).sp + 1 ≤ (({ unit [25] 0 [] 0 with sp := 98 }).params.stackCap : Int) - 1 ∧
    (unit [25] 0 [] 0).sp = -1 :=
  by decide

/-- Meets the hypotheses of GlobalAddrChecksTheBounds: addresses -1, 300, 0, 299. -/
theorem witness_GlobalAddrChecksTheBounds :
    ((-1 : Int) < 0 ∨ (-1 : Int) ≥ (State.reset.params.globalSize : Int)) ∧
    ((300 : Int) < 0 ∨ (300 : Int) ≥ (State.reset.params.globalSize : Int)) ∧
    ¬ ((0 : Int) < 0 ∨ (0 : Int) ≥ (State.reset.params.globalSize : Int)) ∧
    ¬ ((299 : Int) < 0 ∨ (299 : Int) ≥ (State.reset.params.globalSize : Int)) :=
  by decide

/-- Meets the hypotheses of SetSpAndStackAddrCheckTheBounds: values 100, -2, -1, 99 and indices -1, 100, 0, 99. -/
theorem witness_SetSpAndStackAddrCheckTheBounds :
    (100 : Int) > (State.reset.params.stackCap : Int) - 1 ∧
    (-2 : Int) < -1 ∧
    ((-1 : Int) ≥ -1 ∧ (-1 : Int) ≤ (State.reset.params.stackCap : Int) - 1) ∧
    (99 : Int) ≤ (State.reset.params.stackCap : Int) - 1 ∧
    ((-1 : Int) < 0 ∨ (-1 : Int) ≥ (State.reset.params.stackCap : Int)) ∧
    ((100 : Int) < 0 ∨ (100 : Int) ≥ (State.reset.params.stackCap : Int)) ∧
    ¬ ((0 : Int) < 0 ∨ (0 : Int) ≥ (State.reset.params.stackCap : Int)) ∧
    ¬ ((99 : Int) < 0 ∨ (99 : Int) ≥ (State.reset.params.stackCap : Int)) :=
  by decide

/-- A unit at GSTORE 299, which CONST 299 and GLOAD follow: the next three states of its run. -/
def storing : State := unit [22, 299, 18, 299, 21, 25] 0 [55] 0

/-- `storing` after the GSTORE. -/
def stored : State := { storing with pc := 2, sp := -1, globals := [(299, 55)] }

/-- `stored` after the CONST: its GLOAD comes next. -/
def loading : State := { stored with pc := 4, sp := 0, stack := [(0, 299)] }

/-- Meets the hypotheses of MemoryWriteChangesOneCellOnly: address 299, one step in between. -/
theorem witness_MemoryWriteChangesOneCellOnly :
    storing.Inv ∧
    PerformsGstore storing 299 ∧
    step storing = .next stored ∧
    stored.run = .running ∧
    Sys2Proof.core.run 1 stored = .next loading ∧
    (∀ m x, m < 1 → Sys2Proof.core.run m stored = .next x → ¬ PerformsGstore x 299) ∧
    loading.run = .running ∧
    fetchInstr loading = .ok .gload ∧
    (0 ≤ loading.sp ∧ topCell loading = 299) :=
  ⟨inv_of_check rfl rfl (by decide), ⟨rfl, by decide⟩, rfl, rfl, rfl, fun m x hm hx hg => by
    obtain rfl : m = 0 := by omega
    cases hx
    exact absurd hg.2 (by decide),
    rfl, by decide, by decide⟩

/-- Meets the hypotheses of MemoryWriteChangesOneCellOnly: a step that writes stack cell 0 and one that does not. -/
theorem witness_MemoryWriteChangesOneCellOnly_steps :
    storing.Inv ∧
    step storing = .next stored ∧
    stored.Inv ∧
    step stored = .next loading ∧
    stackCell loading 0 ≠ stackCell stored 0 ∧
    stackCell stored 0 = stackCell storing 0 :=
  ⟨inv_of_check rfl rfl (by decide), rfl, inv_of_check rfl rfl (by decide), rfl, by decide, by decide⟩

/-- Meets the hypotheses of AddSubMulPushTheWrappedResult. -/
theorem witness_AddSubMulPushTheWrappedResult :
    (vector 0 [1] [6, 7] 0).Inv ∧
    1 ≤ (vector 0 [1] [6, 7] 0).sp :=
  ⟨inv_of_check rfl rfl (by decide), by decide⟩

/-- Meets the hypotheses of NegPushesTheWrappedNegation. -/
theorem witness_NegPushesTheWrappedNegation :
    (vector 0 [14] [5] 0).Inv ∧
    0 ≤ (vector 0 [14] [5] 0).sp :=
  ⟨inv_of_check rfl rfl (by decide), by decide⟩

/-- Meets the hypotheses of DivAndModTruncateOrFault. -/
theorem witness_DivAndModTruncateOrFault :
    (vector 0 [4] [7, -2] 0).Inv ∧
    1 ≤ (vector 0 [4] [7, -2] 0).sp ∧
    topCell (vector 0 [4] [7, -2] 0) ≠ 0 ∧
    (vector 0 [4] [7, 0] 0).Inv ∧
    1 ≤ (vector 0 [4] [7, 0] 0).sp ∧
    topCell (vector 0 [4] [7, 0] 0) = 0 :=
  ⟨inv_of_check rfl rfl (by decide), by decide, by decide, inv_of_check rfl rfl (by decide), by decide, by decide⟩

/-- Meets the hypotheses of QuotientAndRemainderFitTogether. -/
theorem witness_QuotientAndRemainderFitTogether :
    8 ≤ 32 ∧
    cellFits 8 (-128) = true ∧
    cellFits 8 (-1) = true ∧
    cellFits 32 7 = true ∧
    cellFits 32 (-2) = true ∧
    ((-2 : Int) ≠ 0 ∧ ¬ ((7 : Int) = intMin 32 ∧ (-2 : Int) = -1)) :=
  by decide

/-- Meets the hypotheses of DivOfPushedConstantsIsTheirQuotient: just enough room. -/
theorem witness_DivOfPushedConstantsIsTheirQuotient :
    ({ unit [25] 0 [] 0 with sp := 97 }).Inv ∧
    ({ unit [25] 0 [] 0 with sp := 97 }).sp + 2 ≤ (({ unit [25] 0 [] 0 with sp := 97 }).params.stackCap : Int) - 1 ∧
    (cellFits ({ unit [25] 0 [] 0 with sp := 97 }).params.width (-7) = true ∧ cellFits ({ unit [25] 0 [] 0 with sp := 97 }).params.width 2 = true) ∧
    ((2 : Int) ≠ 0 ∧ ¬ ((-7 : Int) = intMin ({ unit [25] 0 [] 0 with sp := 97 }).params.width ∧ (2 : Int) = -1)) :=
  ⟨inv_of_check rfl rfl (by decide), by decide, by decide, by decide⟩

/-- Meets the hypotheses of ComparisonsPushOneOrZero. -/
theorem witness_ComparisonsPushOneOrZero :
    (vector 0 [6] [-1, 0] 0).Inv ∧
    1 ≤ (vector 0 [6] [-1, 0] 0).sp ∧
    (vector 0 [6] [7] 0).sp < 1 :=
  ⟨inv_of_check rfl rfl (by decide), by decide, by decide⟩

/-- Meets the hypotheses of AndOrCountOnlyExactlyOne. -/
theorem witness_AndOrCountOnlyExactlyOne :
    (vector 0 [11] [1, 2] 0).Inv ∧
    1 ≤ (vector 0 [11] [1, 2] 0).sp :=
  ⟨inv_of_check rfl rfl (by decide), by decide⟩

/-- Meets the hypotheses of NotSwapsOneAndZeroOnly. -/
theorem witness_NotSwapsOneAndZeroOnly :
    (vector 0 [13] [7] 0).Inv ∧
    0 ≤ (vector 0 [13] [7] 0).sp ∧
    (vector 0 [13] [] 0).sp < 0 :=
  ⟨inv_of_check rfl rfl (by decide), by decide, by decide⟩

/-- Meets the hypotheses of ConstPushesItsLiteral. -/
theorem witness_ConstPushesItsLiteral :
    ({ unit [25] 0 [] 0 with sp := 98 }).Inv ∧
    ({ unit [25] 0 [] 0 with sp := 98 }).sp < (({ unit [25] 0 [] 0 with sp := 98 }).params.stackCap : Int) - 1 ∧
    ({ unit [25] 0 [] 0 with sp := 99 }).sp = (({ unit [25] 0 [] 0 with sp := 99 }).params.stackCap : Int) - 1 ∧
    OperandCellMissing .const (unit [18] 0 [] 0) :=
  ⟨inv_of_check rfl rfl (by decide), by decide, by decide, ⟨rfl, by decide, by decide, by decide, by decide⟩⟩

/-- Meets the hypotheses of PopDiscardsTheTop. -/
theorem witness_PopDiscardsTheTop :
    0 ≤ (vector 0 [24] [9] 0).sp ∧ (vector 0 [24] [] 0).sp < 0 :=
  by decide

/-- Meets the hypotheses of LoadReadsTheFrameCell: indices 0 and 99 (V81, V85), -1 and 100 (V82, V86). -/
theorem witness_LoadReadsTheFrameCell :
    (vector 0 [19] [10, 32, 2, 7, 0, 99, -2] 4).Inv ∧
    0 ≤ (vector 0 [19] [10, 32, 2, 7, 0, 99, -2] 4).sp ∧
    (if (topCell (vector 0 [19] [10, 32, 2, 7, 0, 99, -2] 4)) < 0 then (vector 0 [19] [10, 32, 2, 7, 0, 99, -2] 4).fp + (topCell (vector 0 [19] [10, 32, 2, 7, 0, 99, -2] 4)) - 2
      else (vector 0 [19] [10, 32, 2, 7, 0, 99, -2] 4).fp + (topCell (vector 0 [19] [10, 32, 2, 7, 0, 99, -2] 4)) + 1) = 0 ∧
    (vector 0 [19] [10, 32, 2, 7, 0, 99, 94] 4).Inv ∧
    (if (topCell (vector 0 [19] [10, 32, 2, 7, 0, 99, 94] 4)) < 0 then (vector 0 [19] [10, 32, 2, 7, 0, 99, 94] 4).fp + (topCell (vector 0 [19] [10, 32, 2, 7, 0, 99, 94] 4)) - 2
      else (vector 0 [19] [10, 32, 2, 7, 0, 99, 94] 4).fp + (topCell (vector 0 [19] [10, 32, 2, 7, 0, 99, 94] 4)) + 1) = 99 ∧
    (vector 0 [19] [10, 32, 2, 7, 0, 99, -3] 4).Inv ∧
    (if (topCell (vector 0 [19] [10, 32, 2, 7, 0, 99, -3] 4)) < 0 then (vector 0 [19] [10, 32, 2, 7, 0, 99, -3] 4).fp + (topCell (vector 0 [19] [10, 32, 2, 7, 0, 99, -3] 4)) - 2
      else (vector 0 [19] [10, 32, 2, 7, 0, 99, -3] 4).fp + (topCell (vector 0 [19] [10, 32, 2, 7, 0, 99, -3] 4)) + 1) = -1 ∧
    (vector 0 [19] [10, 32, 2, 7, 0, 99, 95] 4).Inv ∧
    (if (topCell (vector 0 [19] [10, 32, 2, 7, 0, 99, 95] 4)) < 0 then (vector 0 [19] [10, 32, 2, 7, 0, 99, 95] 4).fp + (topCell (vector 0 [19] [10, 32, 2, 7, 0, 99, 95] 4)) - 2
      else (vector 0 [19] [10, 32, 2, 7, 0, 99, 95] 4).fp + (topCell (vector 0 [19] [10, 32, 2, 7, 0, 99, 95] 4)) + 1) = 100 :=
  ⟨inv_of_check rfl rfl (by decide), by decide, by decide, inv_of_check rfl rfl (by decide), by decide, inv_of_check rfl rfl (by decide), by decide, inv_of_check rfl rfl (by decide), by decide⟩

/-- Meets the hypotheses of LoadReadsTheFrameCell. -/
theorem witness_LoadReadsTheFrameCell_empty :
    (vector 0 [19] [] 4).sp < 0 :=
  by decide

/-- Meets the hypotheses of StoreWritesTheFrameCell: indices 0 and 99 (V99, V101), -1 and 100 (V100, V102). -/
theorem witness_StoreWritesTheFrameCell :
    0 ≤ (vector 0 [20, 0] [10, 32, 2, 7, 0, 99, 42] 4).sp ∧
    (0 : Int) = (vector 0 [20, 0] [10, 32, 2, 7, 0, 99, 42] 4).fp - (5 : Int) + 1 ∧
    (99 : Int) = (vector 0 [20, 0] [10, 32, 2, 7, 0, 99, 42] 4).fp - (-94 : Int) + 1 ∧
    (-1 : Int) = (vector 0 [20, 0] [10, 32, 2, 7, 0, 99, 42] 4).fp - (6 : Int) + 1 ∧
    (100 : Int) = (vector 0 [20, 0] [10, 32, 2, 7, 0, 99, 42] 4).fp - (-95 : Int) + 1 ∧
    (vector 0 [20, 0] [] 4).sp < 0 ∧
    OperandCellMissing .store (unit [20] 0 [] 4) :=
  ⟨by decide, by decide, by decide, by decide, by decide, by decide, ⟨rfl, by decide, by decide, by decide, by decide⟩⟩

/-- Meets the hypotheses of GloadReadsTheGlobalCell: addresses 0 and 299. -/
theorem witness_GloadReadsTheGlobalCell :
    (vector 0 [21] [0] 0).Inv ∧
    0 ≤ (topCell (vector 0 [21] [0] 0)) ∧
    (vector 0 [21] [299] 0).Inv ∧
    0 ≤ (vector 0 [21] [299] 0).sp ∧
    (topCell (vector 0 [21] [299] 0)) < ((vector 0 [21] [299] 0).params.globalSize : Int) :=
  ⟨inv_of_check rfl rfl (by decide), by decide, inv_of_check rfl rfl (by decide), by decide, by decide⟩

/-- Meets the hypotheses of GloadReadsTheGlobalCell: addresses -1 and 300, the empty stack. -/
theorem witness_GloadReadsTheGlobalCell_faults :
    (topCell (vector 0 [21] [-1] 0)) < 0 ∧
    (topCell (vector 0 [21] [300] 0)) ≥ ((vector 0 [21] [300] 0).params.globalSize : Int) ∧
    (vector 0 [21] [] 0).sp < 0 :=
  by decide

/-- Meets the hypotheses of GstoreWritesTheGlobalCell: addresses 0, 299, -1, 300. -/
theorem witness_GstoreWritesTheGlobalCell :
    0 ≤ (vector 0 [22, 7] [55] 0).sp ∧
    (0 ≤ (0 : Int) ∧ (299 : Int) < ((vector 0 [22, 7] [55] 0).params.globalSize : Int)) ∧
    (-1 : Int) < 0 ∧
    (300 : Int) ≥ ((vector 0 [22, 7] [55] 0).params.globalSize : Int) ∧
    (vector 0 [22, 7] [] 0).sp < 0 ∧
    OperandCellMissing .gstore (unit [22] 0 [55] 0) :=
  ⟨by decide, by decide, by decide, by decide, by decide, ⟨rfl, by decide, by decide, by decide, by decide⟩⟩

/-- Meets the hypotheses of JmpGoesToThePoppedTarget. -/
theorem witness_JmpGoesToThePoppedTarget :
    0 ≤ (vector 3 [15] [-5] 0).sp ∧ (vector 3 [15] [] 0).sp < 0 :=
  by decide

/-- Meets the hypotheses of JmptIsTakenOnlyOnExactlyOne. -/
theorem witness_JmptIsTakenOnlyOnExactlyOne :
    1 ≤ (vector 16 [16] [1, 37] 0).sp ∧ (vector 16 [16] [37] 0).sp < 1 :=
  by decide

/-- Meets the hypotheses of JmpfIsTakenOnlyOnExactlyZero. -/
theorem witness_JmpfIsTakenOnlyOnExactlyZero :
    1 ≤ (vector 9 [17] [7, 20] 0).sp ∧
    secondCell (vector 9 [17] [7, 20] 0) ≠ 0 ∧
    secondCell (vector 9 [17] [7, 20] 0) ≠ 1 ∧
    (vector 9 [17] [20] 0).sp < 1 :=
  by decide

/-- Meets the hypotheses of CallBuildsTheFrame: the frame that exactly fits (V140), the local count that lowers sp to -1. -/
theorem witness_CallBuildsTheFrame :
    ({ vector 4 [26, 10, 0, 0] [] 0 with sp := 96 }).Inv ∧
    ({ vector 4 [26, 10, 0, 0] [] 0 with sp := 96 }).sp + 3 ≤ (({ vector 4 [26, 10, 0, 0] [] 0 with sp := 96 }).params.stackCap : Int) - 1 ∧
    -1 ≤ ({ vector 4 [26, 10, 0, 0] [] 0 with sp := 96 }).sp + 3 + (0 : Int) ∧
    ({ vector 4 [26, 10, 0, 0] [] 0 with sp := 96 }).sp + 3 + (0 : Int) ≤ (({ vector 4 [26, 10, 0, 0] [] 0 with sp := 96 }).params.stackCap : Int) - 1 ∧
    (vector 4 [26, 10, 0, -3] [] 0).Inv ∧
    (vector 4 [26, 10, 0, -3] [] 0).sp + 3 + (-3 : Int) = -1 :=
  ⟨inv_of_check rfl rfl (by decide), by decide, by decide, by decide, inv_of_check rfl rfl (by decide), by decide⟩

/-- Meets the hypotheses of RetUnwindsTheFrame: n = STACK_CAP - 2 (V159) and n = -1 (V148). -/
theorem witness_RetUnwindsTheFrame :
    (vector 3 [27] [-99, 7, 0, 9] 2).Inv ∧
    (0 ≤ (vector 3 [27] [-99, 7, 0, 9] 2).sp ∧ 2 ≤ (vector 3 [27] [-99, 7, 0, 9] 2).fp ∧ (vector 3 [27] [-99, 7, 0, 9] 2).fp ≤ ((vector 3 [27] [-99, 7, 0, 9] 2).params.stackCap : Int) - 1) ∧
    (98 : Int) = (vector 3 [27] [-99, 7, 0, 9] 2).fp - 3 - (stackCell (vector 3 [27] [-99, 7, 0, 9] 2) ((vector 3 [27] [-99, 7, 0, 9] 2).fp.toNat - 2)) ∧
    (vector 12 [27] [0, 9, -5, 3] 2).Inv ∧
    (-1 : Int) = (vector 12 [27] [0, 9, -5, 3] 2).fp - 3 - (stackCell (vector 12 [27] [0, 9, -5, 3] 2) ((vector 12 [27] [0, 9, -5, 3] 2).fp.toNat - 2)) :=
  ⟨inv_of_check rfl rfl (by decide), by decide, by decide, inv_of_check rfl rfl (by decide), by decide⟩

/-- The state V135 ends in: CALL 10 2 1 from `vector 4 [26, 10, 2, 1] [10, 32] 0`. -/
def called : State :=
  { vector 4 [26, 10, 2, 1] [10, 32] 0 with
    pc := 10
    sp := 5
    fp := 4
    stack := [(0, 10), (1, 32), (2, 2), (3, 7), (4, 0)] }

/-- The state in which V147 starts, but for its pc and program: the callee has left 42 in its local and on top. -/
def returning : State := { called with sp := 6, stack := called.stack ++ [(5, 42), (6, 42)] }

/-- Meets the hypotheses of CallThenRetRestoresTheCaller: every argument cell in use is an argument. -/
theorem witness_CallThenRetRestoresTheCaller :
    (vector 4 [26, 10, 2, 1] [10, 32] 0).Inv ∧
    (vector 4 [26, 10, 2, 1] [10, 32] 0).sp + 3 ≤ ((vector 4 [26, 10, 2, 1] [10, 32] 0).params.stackCap : Int) - 1 ∧
    (0 ≤ (2 : Int) ∧ (2 : Int) ≤ (vector 4 [26, 10, 2, 1] [10, 32] 0).sp + 1) ∧
    (-1 ≤ (vector 4 [26, 10, 2, 1] [10, 32] 0).sp + 3 + (1 : Int) ∧ (vector 4 [26, 10, 2, 1] [10, 32] 0).sp + 3 + (1 : Int) ≤ ((vector 4 [26, 10, 2, 1] [10, 32] 0).params.stackCap : Int) - 1) ∧
    exec (.call 10 2 1) (vector 4 [26, 10, 2, 1] [10, 32] 0) = .next called ∧
    returning.Inv ∧
    returning.params = called.params ∧
    returning.fp = called.fp ∧
    0 ≤ returning.sp ∧
    stackCell returning called.fp.toNat = stackCell called called.fp.toNat ∧
    stackCell returning (called.fp.toNat - 1) = stackCell called (called.fp.toNat - 1) ∧
    stackCell returning (called.fp.toNat - 2) = stackCell called (called.fp.toNat - 2) :=
  ⟨inv_of_check rfl rfl (by decide), by decide, by decide, by decide, rfl, inv_of_check rfl rfl (by decide), by decide, by decide, by decide, by decide, by decide, by decide⟩

/-- The state V138 ends in: CALL 10 0 -2 from `vector 4 [26, 10, 0, -2] [5] 0`, whose locals count is negative. -/
def calledNegative : State :=
  { vector 4 [26, 10, 0, -2] [5] 0 with
    pc := 10
    sp := 1
    fp := 3
    stack := [(0, 5), (1, 0), (2, 7), (3, 0)] }

/-- Meets the hypotheses of CallThenRetRestoresTheCaller: a negative local count (V138); the callee's state is the one just after the CALL. -/
theorem witness_CallThenRetRestoresTheCaller_negative :
    (vector 4 [26, 10, 0, -2] [5] 0).Inv ∧
    (vector 4 [26, 10, 0, -2] [5] 0).sp + 3 ≤ ((vector 4 [26, 10, 0, -2] [5] 0).params.stackCap : Int) - 1 ∧
    (0 ≤ (0 : Int) ∧ (0 : Int) ≤ (vector 4 [26, 10, 0, -2] [5] 0).sp + 1) ∧
    (-1 ≤ (vector 4 [26, 10, 0, -2] [5] 0).sp + 3 + (-2 : Int) ∧ (vector 4 [26, 10, 0, -2] [5] 0).sp + 3 + (-2 : Int) ≤ ((vector 4 [26, 10, 0, -2] [5] 0).params.stackCap : Int) - 1) ∧
    exec (.call 10 0 (-2)) (vector 4 [26, 10, 0, -2] [5] 0) = .next calledNegative ∧
    calledNegative.Inv ∧
    0 ≤ calledNegative.sp ∧
    PcInRange (vector 4 [26, 10, 0, -2] [5] 0) :=
  ⟨inv_of_check rfl rfl (by decide), by decide, by decide, by decide, rfl, inv_of_check rfl rfl (by decide), by decide, by decide, by decide⟩

/-- Meets the hypotheses of CallReturningItsFirstArgument: one argument and as many locals as fit. -/
theorem witness_CallReturningItsFirstArgument :
    (vector 4 [26, 9, 1, 95] [11] 0).Inv ∧
    1 ≤ (1 : Int) ∧
    (1 : Int) ≤ (vector 4 [26, 9, 1, 95] [11] 0).sp + 1 ∧
    0 ≤ (95 : Int) ∧
    (vector 4 [26, 9, 1, 95] [11] 0).sp + 4 + (95 : Int) ≤ ((vector 4 [26, 9, 1, 95] [11] 0).params.stackCap : Int) - 1 :=
  ⟨inv_of_check rfl rfl (by decide), by decide, by decide, by decide, by decide⟩

/-- Meets the hypotheses of PrintEmitsTheTopOnce. -/
theorem witness_PrintEmitsTheTopOnce :
    0 ≤ (vector 0 [23] [5] 0).sp ∧ (vector 0 [23] [] 0).sp < 0 :=
  by decide

/-- Meets the hypotheses of StackOverflowOnlyFromConstCallRet. -/
theorem witness_StackOverflowOnlyFromConstCallRet :
    ({ unit [25] 0 [] 0 with sp := 99 }).sp = (({ unit [25] 0 [] 0 with sp := 99 }).params.stackCap : Int) - 1 ∧
    (100 : Int) > (State.reset.params.stackCap : Int) - 1 ∧
    ({ vector 0 [18, 7] [] 0 with sp := 99 }).Inv ∧
    (({ vector 0 [18, 7] [] 0 with sp := 99 }).run = .running ∧ ∃ t, step ({ vector 0 [18, 7] [] 0 with sp := 99 }) = .next t ∧ t.run = .faulted ∧ t.faultRec.kind = some .stackOverflow) ∧
    (vector 3 [27] [5] 100).Inv ∧
    ((vector 3 [27] [5] 100).run = .running ∧ ∃ t, step (vector 3 [27] [5] 100) = .next t ∧ t.run = .faulted ∧ t.faultRec.kind = some .stackOverflow) :=
  ⟨by decide, by decide, inv_of_check rfl rfl (by decide), ⟨rfl, _, rfl, rfl, rfl⟩, inv_of_check rfl rfl (by decide), rfl, _, rfl, rfl, rfl⟩

/-- Meets the hypotheses of ArithmeticFaultOnlyFromAZeroDivisor. -/
theorem witness_ArithmeticFaultOnlyFromAZeroDivisor :
    covered (vector 0 [4] [7, 0] 0) = true ∧
    ((vector 0 [4] [7, 0] 0).run = .running ∧ ∃ t, step (vector 0 [4] [7, 0] 0) = .next t ∧ t.run = .faulted ∧ t.faultRec.kind = some .arithmeticFault) ∧
    (vector 0 [4] [-2147483648, -1] 0).Inv ∧
    1 ≤ (vector 0 [4] [-2147483648, -1] 0).sp ∧
    secondCell (vector 0 [4] [-2147483648, -1] 0) = intMin 32 ∧
    topCell (vector 0 [4] [-2147483648, -1] 0) = -1 :=
  ⟨by decide, ⟨rfl, _, rfl, rfl, rfl⟩, inv_of_check rfl rfl (by decide), by decide, by decide, by decide⟩

/-- Meets the hypotheses of StackUnderflowCauses: POP on an empty stack, CALL's locals (V139), RET's argument drop (V156). -/
theorem witness_StackUnderflowCauses :
    (vector 0 [24] [] 0).sp = -1 ∧
    (-2 : Int) < -1 ∧
    (vector 0 [24] [] 0).Inv ∧
    ((vector 0 [24] [] 0).run = .running ∧ ∃ t, step (vector 0 [24] [] 0) = .next t ∧ t.run = .faulted ∧ t.faultRec.kind = some .stackUnderflow) ∧
    (vector 4 [26, 10, 0, -6] [5] 0).Inv ∧
    ((vector 4 [26, 10, 0, -6] [5] 0).run = .running ∧ ∃ t, step (vector 4 [26, 10, 0, -6] [5] 0) = .next t ∧ t.run = .faulted ∧ t.faultRec.kind = some .stackUnderflow) ∧
    (vector 3 [27] [5, 7, 0, 9] 2).Inv ∧
    ((vector 3 [27] [5, 7, 0, 9] 2).run = .running ∧ ∃ t, step (vector 3 [27] [5, 7, 0, 9] 2) = .next t ∧ t.run = .faulted ∧ t.faultRec.kind = some .stackUnderflow) :=
  ⟨by decide, by decide, inv_of_check rfl rfl (by decide), ⟨rfl, _, rfl, rfl, rfl⟩, inv_of_check rfl rfl (by decide), ⟨rfl, _, rfl, rfl, rfl⟩, inv_of_check rfl rfl (by decide),
    rfl, _, rfl, rfl, rfl⟩

/-- Meets the hypotheses of OutOfBoundsMemoryAccessCauses. -/
theorem witness_OutOfBoundsMemoryAccessCauses :
    (covered (vector 0 [20, 6] [10, 32, 2, 7, 0, 99, 42] 4) = true ∧ fetchInstr (vector 0 [20, 6] [10, 32, 2, 7, 0, 99, 42] 4) = .ok (.store 6)) ∧
    ((vector 0 [20, 6] [10, 32, 2, 7, 0, 99, 42] 4).run = .running ∧ ∃ t, step (vector 0 [20, 6] [10, 32, 2, 7, 0, 99, 42] 4) = .next t ∧ t.run = .faulted ∧ t.faultRec.kind = some .outOfBoundsMemoryAccess) ∧
    ((unit [25] 1 [] 0).run = .running ∧ ∃ t, step (unit [25] 1 [] 0) = .next t ∧ t.run = .faulted ∧ t.faultRec.kind = some .outOfBoundsMemoryAccess) ∧
    ((vector 0 [21] [300] 0).run = .running ∧ ∃ t, step (vector 0 [21] [300] 0) = .next t ∧ t.run = .faulted ∧ t.faultRec.kind = some .outOfBoundsMemoryAccess) ∧
    (covered (unit [18] 0 [] 0) = true ∧ fetchInstr (unit [18] 0 [] 0) = .error .outOfBoundsMemoryAccess) :=
  ⟨by decide, ⟨rfl, _, rfl, rfl, rfl⟩, ⟨rfl, _, rfl, rfl, rfl⟩, ⟨rfl, _, rfl, rfl, rfl⟩, by decide, by decide⟩

end Witnesses

end Sys2Proof.Tests
end

section
/-! SUPPORT. R56: what each primitive answers when it answers, the cells an instruction may change (its frame), the same for a
step and for a run, and the proof of O31 from these. -/

namespace Sys2Proof

/-- The second of two writes to one cell is the one that stands (R10). -/
theorem Memory.write_write (m : Memory) (i : Nat) (u v : Int) :
    Memory.write (Memory.write m i u) i v = Memory.write m i v := by
  induction m with
  | nil => simp [Memory.write]
  | cons c m ih =>
    obtain ⟨j, w⟩ := c
    rcases Nat.lt_trichotomy i j with h | rfl | h
    · simp [Memory.write, h]
    · simp [Memory.write]
    · simp [Memory.write, ih, Nat.lt_asymm h, Nat.ne_of_gt h]

namespace Machine

section Writes

variable (s : State) (i : Nat) (u v : Int)

theorem stackWrite_stackWrite : stackWrite (stackWrite s i u) i v = stackWrite s i v :=
  congrArg s.setStack (Memory.write_write s.stack i u v)

theorem globalWrite_globalWrite : globalWrite (globalWrite s i u) i v = globalWrite s i v :=
  congrArg s.setGlobals (Memory.write_write s.globals i u v)

theorem stackSetAt_stackWrite : StackSetAt s (stackWrite s i v) i v :=
  ⟨stackCell_stackWrite_self s i v, fun _ hj => stackCell_stackWrite_of_ne s v hj⟩

theorem globalSetAt_globalWrite : GlobalSetAt s (globalWrite s i v) i v :=
  ⟨globalCell_globalWrite_self s i v, fun _ hj => globalCell_globalWrite_of_ne s v hj⟩

theorem sameGlobals_stackWrite : SameGlobals s (stackWrite s i v) :=
  fun j => globalCell_stackWrite s i v j

theorem sameStack_globalWrite : SameStack s (globalWrite s i v) :=
  fun j => stackCell_globalWrite s i v j

end Writes

section Answers

variable {s t : State} {v e : Int} {n : Nat}

theorem pop_eq_ok (h : pop s = .ok (v, t)) : 0 ≤ s.sp ∧ v = topCell s ∧ t = s.setSpReg (s.sp - 1) := by
  rcases pop_cases s with ⟨_, e⟩ | ⟨h0, e⟩ <;> rw [e] at h <;> cases h
  exact ⟨h0, rfl, rfl⟩

theorem push_eq_ok (h : push v s = .ok t) :
    s.sp + 1 ≤ (s.params.stackCap : Int) - 1 ∧ t = stackWrite (s.setSpReg (s.sp + 1)) (s.sp + 1).toNat v := by
  rcases push_cases v s with ⟨_, e⟩ | ⟨h0, e⟩ <;> rw [e] at h <;> cases h
  exact ⟨h0, rfl⟩

theorem setSp_eq_ok (h : setSp e s = .ok t) :
    -1 ≤ e ∧ e ≤ (s.params.stackCap : Int) - 1 ∧ t = s.setSpReg e := by
  rcases setSp_cases e s with ⟨_, he⟩ | ⟨_, _, he⟩ | ⟨h1, h2, he⟩ <;> rw [he] at h <;> cases h
  exact ⟨h1, h2, rfl⟩

theorem stackAddr_eq_ok (h : stackAddr e s = .ok n) : 0 ≤ e ∧ e < (s.params.stackCap : Int) ∧ n = e.toNat := by
  by_cases he : 0 ≤ e ∧ e < (s.params.stackCap : Int)
  · rw [stackAddr_of_inRange he.1 he.2] at h
    cases h
    exact ⟨he.1, he.2, rfl⟩
  · rw [stackAddr_of_outOfRange (by omega)] at h
    cases h

theorem globalAddr_eq_ok (h : globalAddr e s = .ok n) : 0 ≤ e ∧ e < (s.params.globalSize : Int) ∧ n = e.toNat := by
  by_cases he : 0 ≤ e ∧ e < (s.params.globalSize : Int)
  · rw [globalAddr_of_inRange he.1 he.2] at h
    cases h
    exact ⟨he.1, he.2, rfl⟩
  · rw [globalAddr_of_outOfRange (by omega)] at h
    cases h

end Answers

/-- The global cells an instruction that completes writes: the one of GSTORE (R145). -/
def globalCellsWritten : Instr → List Int
  | .gstore addr => [addr]
  | _ => []

theorem mem_globalCellsWritten {i : Instr} {k : Int} : k ∈ globalCellsWritten i ↔ i = .gstore k := by
  cases i <;> simp [globalCellsWritten, eq_comm]

/-- sp is the index of a stack cell, or -1 for the empty stack (R23). -/
def SpInRange (s : State) : Prop := -1 ≤ s.sp ∧ s.sp ≤ (s.params.stackCap : Int) - 1

/-- `t` comes from `s` by changes that write no stack cell outside `ws` and no global cell outside `wg`, keep the constants
of the unit (R5, R68), and leave sp in its range if it was there (R23). -/
structure Frame (ws wg : List Int) (s t : State) : Prop where
  prog : t.prog = s.prog
  params : t.params = s.params
  resets : t.resets = s.resets
  spInRange : SpInRange s → SpInRange t
  stack : ∀ k : Nat, (k : Int) ∉ ws → stackCell t k = stackCell s k
  globals : ∀ k : Nat, (k : Int) ∉ wg → globalCell t k = globalCell s k

namespace Frame

variable {ws wg : List Int} {s t u : State}

theorem refl (ws wg : List Int) (s : State) : Frame ws wg s s :=
  ⟨rfl, rfl, rfl, id, fun _ _ => rfl, fun _ _ => rfl⟩

theorem trans (h : Frame ws wg s t) (h' : Frame ws wg t u) : Frame ws wg s u where
  prog := h'.prog.trans h.prog
  params := h'.params.trans h.params
  resets := h'.resets.trans h.resets
  spInRange := h'.spInRange ∘ h.spInRange
  stack k hk := (h'.stack k hk).trans (h.stack k hk)
  globals k hk := (h'.globals k hk).trans (h.globals k hk)

theorem setPc (h : Frame ws wg s t) (v : Int) : Frame ws wg s (t.setPc v) := { h with }

theorem setFp (h : Frame ws wg s t) (v : Int) : Frame ws wg s (t.setFp v) := { h with }

theorem setRun (h : Frame ws wg s t) (v : RunState) : Frame ws wg s (t.setRun v) := { h with }

theorem setFaultRec (h : Frame ws wg s t) (v : FaultRecord) : Frame ws wg s (t.setFaultRec v) := { h with }

theorem setOut (h : Frame ws wg s t) (v : List Int) : Frame ws wg s (t.setOut v) := { h with }

theorem takeFault (ws wg : List Int) (k : FaultKind) (s : State) : Frame ws wg s (takeFault k s) :=
  ((refl ws wg s).setFaultRec _).setRun _

theorem setSpReg (h : Frame ws wg s t) {v : Int} (hv : SpInRange s → SpInRange (t.setSpReg v)) :
    Frame ws wg s (t.setSpReg v) := { h with spInRange := hv }

theorem stackWrite (h : Frame ws wg s t) {n : Nat} (hn : (n : Int) ∈ ws) (v : Int) :
    Frame ws wg s (stackWrite t n v) :=
  { h with
    stack := fun k hk => by
      have hkn : k ≠ n := fun e => hk (e ▸ hn)
      rw [stackCell_stackWrite_of_ne t v hkn, h.stack k hk] }

theorem globalWrite (h : Frame ws wg s t) {n : Nat} (hn : (n : Int) ∈ wg) (v : Int) :
    Frame ws wg s (globalWrite t n v) :=
  { h with
    globals := fun k hk => by
      have hkn : k ≠ n := fun e => hk (e ▸ hn)
      rw [globalCell_globalWrite_of_ne t v hkn, h.globals k hk] }

theorem covered (h : Frame ws wg s t) (hc : covered s = true) : Machine.covered t = true := by
  rwa [Machine.covered, h.params, h.prog]

/-- `Pop` writes no cell (R104). -/
theorem pop {v : Int} (h : Machine.pop s = .ok (v, t)) : Frame ws wg s t := by
  obtain ⟨h0, -, rfl⟩ := pop_eq_ok h
  refine (refl ws wg s).setSpReg fun ⟨_, hr⟩ => ?_
  simp only [SpInRange, State.setSpReg_sp, State.setSpReg_params]
  omega

/-- `Push` writes the cell above the top (R105). -/
theorem push {v : Int} (h : Machine.push v s = .ok t) (h0 : -1 ≤ s.sp) (hw : s.sp + 1 ∈ ws) : Frame ws wg s t := by
  obtain ⟨hr, rfl⟩ := push_eq_ok h
  have hn : ((s.sp + 1).toNat : Int) = s.sp + 1 := Int.toNat_of_nonneg (by omega)
  refine ((refl ws wg s).setSpReg fun _ => ?_).stackWrite (hn.symm ▸ hw) v
  simp only [SpInRange, State.setSpReg_sp, State.setSpReg_params]
  omega

/-- `SetSP` writes no cell (R106). -/
theorem setSp {e : Int} (h : Machine.setSp e s = .ok t) : Frame ws wg s t := by
  obtain ⟨hl, hr, rfl⟩ := setSp_eq_ok h
  exact (refl ws wg s).setSpReg fun _ => ⟨hl, hr⟩

end Frame

section Instructions

variable {s t : State} {wg : List Int}

/-- An instruction has a frame if its completion has it, since a fault changes no cell (R180). -/
theorem frame_of_finish {ws : List Int} {r : Except FaultKind State} (hok : r = .ok t → Frame ws wg s t)
    (h : finish s r = .next t) : Frame ws wg s t := by
  rcases finish_cases h with h | ⟨k, _, rfl⟩
  · exact hok h
  · exact Frame.takeFault ws wg k s

/-- A push after a pop writes the popped cell (R104, R105). -/
theorem push_after_pop_frame {s1 : State} {a v : Int} (ha : pop s = .ok (a, s1)) (hv : push v s1 = .ok t) :
    Frame [s.sp] wg s t := by
  refine (Frame.pop ha).trans ?_
  obtain ⟨h0, -, rfl⟩ := pop_eq_ok ha
  exact Frame.push hv (by simp only [State.setSpReg_sp]; omega) (by simp)

theorem binaryOp_frame {f : Int → Int → Except FaultKind Int} (h : binaryOp f s = .ok t) :
    Frame [s.sp - 1] wg s t := by
  obtain ⟨⟨b, s1⟩, hb, h⟩ := bind_eq_ok h
  obtain ⟨⟨a, s2⟩, ha, h⟩ := bind_eq_ok h
  obtain ⟨v, -, h⟩ := bind_eq_ok h
  obtain ⟨s3, hv, h⟩ := bind_eq_ok h
  cases h
  have hsp : s1.sp = s.sp - 1 := by
    obtain ⟨-, -, rfl⟩ := pop_eq_ok hb
    rfl
  exact ((Frame.pop hb).trans (hsp ▸ push_after_pop_frame ha hv)).setPc _

theorem unaryOp_frame {f : Int → Int} (h : unaryOp f s = .ok t) : Frame [s.sp] wg s t := by
  obtain ⟨⟨a, s1⟩, ha, h⟩ := bind_eq_ok h
  obtain ⟨s2, hv, h⟩ := bind_eq_ok h
  cases h
  exact (push_after_pop_frame ha hv).setPc _

theorem condJump_frame {taken : Int → Bool} (h : condJump taken s = .ok t) : Frame [] wg s t := by
  obtain ⟨⟨target, s1⟩, ht, h⟩ := bind_eq_ok h
  obtain ⟨⟨cond, s2⟩, hc, h⟩ := bind_eq_ok h
  have hp : Frame [] wg s s2 := (Frame.pop ht).trans (Frame.pop hc)
  cases h
  split
  · exact hp.setPc _
  · exact hp.setPc _

theorem execJmp_frame (h : execJmp s = .next t) : Frame [] wg s t := by
  refine frame_of_finish (fun h => ?_) h
  obtain ⟨⟨target, s1⟩, hp, h⟩ := bind_eq_ok h
  cases h
  exact (Frame.pop hp).setPc _

theorem execConst_frame {literal : Int} (h0 : -1 ≤ s.sp) (h : execConst literal s = .next t) :
    Frame [s.sp + 1] wg s t := by
  refine frame_of_finish (fun h => ?_) h
  obtain ⟨s1, hv, h⟩ := bind_eq_ok h
  cases h
  exact (Frame.push hv h0 (by simp)).setPc _

theorem execLoad_frame (h : execLoad s = .next t) : Frame [s.sp] wg s t := by
  refine frame_of_finish (fun h => ?_) h
  obtain ⟨⟨a, s1⟩, ha, h⟩ := bind_eq_ok h
  obtain ⟨e, -, h⟩ := bind_eq_ok h
  obtain ⟨s2, hv, h⟩ := bind_eq_ok h
  cases h
  exact (push_after_pop_frame ha hv).setPc _

theorem execGload_frame (h : execGload s = .next t) : Frame [s.sp] wg s t := by
  refine frame_of_finish (fun h => ?_) h
  obtain ⟨⟨a, s1⟩, ha, h⟩ := bind_eq_ok h
  obtain ⟨e, -, h⟩ := bind_eq_ok h
  obtain ⟨s2, hv, h⟩ := bind_eq_ok h
  cases h
  exact (push_after_pop_frame ha hv).setPc _

theorem execStore_frame {offset : Int} (h : execStore offset s = .next t) :
    Frame [s.fp - offset + 1] wg s t := by
  refine frame_of_finish (fun h => ?_) h
  obtain ⟨⟨value, s1⟩, hp, h⟩ := bind_eq_ok h
  obtain ⟨n, hn, h⟩ := bind_eq_ok h
  cases h
  obtain ⟨h0, -, rfl⟩ := stackAddr_eq_ok hn
  have hfp : s1.fp = s.fp := by
    obtain ⟨-, -, rfl⟩ := pop_eq_ok hp
    rfl
  rw [hfp] at h0 ⊢
  exact ((Frame.pop hp).stackWrite (by rw [Int.toNat_of_nonneg h0]; simp [storeIndex]) value).setPc _

/-- A GSTORE at `addr` that does not fault puts the top into global cell `addr` and pops it (R145). -/
theorem execGstore_cases {addr : Int} (h : execGstore addr s = .next t) :
    (0 ≤ s.sp ∧ 0 ≤ addr ∧ addr < (s.params.globalSize : Int) ∧
      t = (globalWrite (s.setSpReg (s.sp - 1)) addr.toNat (topCell s)).setPc (s.pc + 2)) ∨
    ∃ k, t = takeFault k s := by
  rcases finish_cases h with h | ⟨k, -, rfl⟩
  · obtain ⟨⟨value, s1⟩, hp, h⟩ := bind_eq_ok h
    obtain ⟨n, hn, h⟩ := bind_eq_ok h
    cases h
    obtain ⟨hsp, rfl, rfl⟩ := pop_eq_ok hp
    obtain ⟨h0, h1, rfl⟩ := globalAddr_eq_ok hn
    exact .inl ⟨hsp, h0, h1, advance_one _⟩
  · exact .inr ⟨k, rfl⟩

theorem execGstore_frame {addr : Int} {ws : List Int} (h : execGstore addr s = .next t) : Frame ws [addr] s t := by
  rcases execGstore_cases h with ⟨hsp, h0, -, rfl⟩ | ⟨k, rfl⟩
  · have hp : Frame ws [addr] s (s.setSpReg (s.sp - 1)) := Frame.pop (pop_of_nonneg hsp)
    exact (hp.globalWrite (by simp [Int.toNat_of_nonneg h0]) _).setPc _
  · exact Frame.takeFault ws [addr] k s

theorem execPrint_frame (h : execPrint s = .next t) : Frame [] wg s t := by
  refine frame_of_finish (fun h => ?_) h
  obtain ⟨⟨value, s1⟩, hp, h⟩ := bind_eq_ok h
  cases h
  exact ((Frame.pop hp).setOut _).setPc _

theorem execPop_frame (h : execPop s = .next t) : Frame [] wg s t := by
  refine frame_of_finish (fun h => ?_) h
  obtain ⟨⟨value, s1⟩, hp, h⟩ := bind_eq_ok h
  cases h
  exact (Frame.pop hp).setPc _

theorem execHalt_frame (h : execHalt s = .next t) : Frame [] wg s t := by
  cases h
  exact ((Frame.refl [] wg s).setRun _).setPc _

/-- CALL writes the three cells above the top (R154, R155). -/
theorem execCall_frame {target argcount localcount : Int} (h0 : -1 ≤ s.sp)
    (h : execCall target argcount localcount s = .next t) :
    Frame [s.sp + 1, s.sp + 2, s.sp + 3] wg s t := by
  refine frame_of_finish (fun h => ?_) h
  obtain ⟨s1, h1, h⟩ := bind_eq_ok h
  obtain ⟨s2, h2, h⟩ := bind_eq_ok h
  obtain ⟨s3, h3, h⟩ := bind_eq_ok h
  obtain ⟨s5, h5, h⟩ := bind_eq_ok h
  cases h
  have hsp1 : s1.sp = s.sp + 1 := by
    obtain ⟨-, rfl⟩ := push_eq_ok h1
    rfl
  have hsp2 : s2.sp = s.sp + 2 := by
    obtain ⟨-, rfl⟩ := push_eq_ok h2
    simp only [stackWrite_sp, State.setSpReg_sp]
    omega
  have hpush : Frame [s.sp + 1, s.sp + 2, s.sp + 3] wg s s3 :=
    ((Frame.push h1 h0 (by simp)).trans (Frame.push h2 (by omega) (by simp [hsp1, Int.add_assoc]))).trans
      (Frame.push h3 (by omega) (by simp [hsp2, Int.add_assoc]))
  exact ((hpush.setFp _).trans (Frame.setSp h5)).setPc _

/-- RET writes the cell that takes the return value: the lowest argument's, or the argument count's own (R156). -/
theorem execRet_frame (h : execRet s = .next t) :
    Frame [s.fp - 2 - stackCell s (s.fp.toNat - 2)] wg s t := by
  refine frame_of_finish (fun h => ?_) h
  obtain ⟨⟨retval, s1⟩, h1, h⟩ := bind_eq_ok h
  obtain ⟨s2, h2, h⟩ := bind_eq_ok h
  obtain ⟨⟨callerFp, s3⟩, h3, h⟩ := bind_eq_ok h
  obtain ⟨⟨ra, s5⟩, h5, h⟩ := bind_eq_ok h
  obtain ⟨⟨argcount, s6⟩, h6, h⟩ := bind_eq_ok h
  obtain ⟨s7, h7, h⟩ := bind_eq_ok h
  obtain ⟨s8, h8, h⟩ := bind_eq_ok h
  cases h
  have hpops : Frame [s.fp - 2 - stackCell s (s.fp.toNat - 2)] wg s s7 :=
    ((((((Frame.pop h1).trans (Frame.setSp h2)).trans (Frame.pop h3)).setFp callerFp).trans
      (Frame.pop h5)).trans (Frame.pop h6)).trans (Frame.setSp h7)
  have hsp : -1 ≤ s7.sp ∧ s7.sp + 1 = s.fp - 2 - stackCell s (s.fp.toNat - 2) := by
    obtain ⟨-, -, rfl⟩ := pop_eq_ok h1
    obtain ⟨-, -, rfl⟩ := setSp_eq_ok h2
    obtain ⟨-, -, rfl⟩ := pop_eq_ok h3
    obtain ⟨-, -, rfl⟩ := pop_eq_ok h5
    obtain ⟨hfp, rfl, rfl⟩ := pop_eq_ok h6
    obtain ⟨hlow, -, rfl⟩ := setSp_eq_ok h7
    have hcell : (s.fp - 1 - 1).toNat = s.fp.toNat - 2 := by omega
    simp only [topCell, stackCell_setSpReg, stackCell_setFp, State.setSpReg_sp, State.setFp_sp,
      State.setSpReg_fp, hcell] at hlow ⊢
    omega
  exact (hpops.trans (Frame.push h8 hsp.1 (by simp [hsp.2]))).setPc _

end Instructions

/-- What an instruction may change: the stack cells of R120, R140 to R144, R154 and R156, and GSTORE's global cell. -/
theorem exec_frame {i : Instr} {s t : State} (h0 : -1 ≤ s.sp) (h : exec i s = .next t) :
    Frame (stackCellsWritten i s) (globalCellsWritten i) s t := by
  cases i with
  | add | sub | mul | div | mod | lt | gt | leq | geq | eq | and | or => exact frame_of_finish binaryOp_frame h
  | not | neg => exact frame_of_finish unaryOp_frame h
  | jmp => exact execJmp_frame h
  | jmpt | jmpf => exact frame_of_finish condJump_frame h
  | const literal => exact execConst_frame h0 h
  | load => exact execLoad_frame h
  | store offset => exact execStore_frame h
  | gload => exact execGload_frame h
  | gstore addr => exact execGstore_frame h
  | print => exact execPrint_frame h
  | pop => exact execPop_frame h
  | halt => exact execHalt_frame h
  | call target argcount localcount => exact execCall_frame h0 h
  | ret => exact execRet_frame h

/-- With an address inside global memory on top, GLOAD replaces it by the cell (R144). -/
theorem execGload_of_ok {s : State} (hs : SpInRange s) (h0 : 0 ≤ s.sp) (ha : 0 ≤ topCell s)
    (hb : topCell s < (s.params.globalSize : Int)) :
    execGload s =
      .next ((stackWrite s s.sp.toNat (globalCell s (topCell s).toNat)).setPc (s.pc + 1)) := by
  have haddr : globalAddr (topCell s) (s.setSpReg (s.sp - 1)) = .ok (topCell s).toNat :=
    globalAddr_of_inRange ha hb
  simp only [execGload, pop_of_nonneg h0, ok_bind, haddr, globalCell_setSpReg, push_after_pop hs.2, advance_zero,
    stackWrite_pc, finish_ok]

section Steps

variable {s t u : State}

/-- A step changes only cells that the instruction it performs writes (R56, R180). -/
theorem step_frame (h0 : -1 ≤ s.sp) (h : step s = .next t) :
    ∃ ws wg, Frame ws wg s t ∧
      (∀ c ∈ ws, s.run = .running ∧ ∃ i, fetchInstr s = .ok i ∧ c ∈ stackCellsWritten i s) ∧
      ∀ c ∈ wg, PerformsGstore s c := by
  rcases step_cases h with ⟨-, rfl⟩ | ⟨hr, -, ⟨k, -, rfl⟩ | ⟨i, hf, he⟩⟩
  · exact ⟨[], [], Frame.refl [] [] t, by simp, by simp⟩
  · exact ⟨[], [], Frame.takeFault [] [] k s, by simp, by simp⟩
  · refine ⟨_, _, exec_frame h0 he, fun c hc => ⟨hr, i, hf, hc⟩, fun c hc => ⟨hr, ?_⟩⟩
    rw [hf, mem_globalCellsWritten.mp hc]

theorem run_succ {n : Nat} (h : core.run (n + 1) s = .next u) : ∃ t, step s = .next t ∧ core.run n t = .next u := by
  cases hs : core.step s with
  | next t => exact ⟨t, hs, by simpa only [Host.Core.run, hs] using h⟩
  | fault r => simp [Host.Core.run, hs] at h
  | refused r => simp [Host.Core.run, hs] at h

theorem run_succ_of_step {n : Nat} (h : step s = .next t) : core.run (n + 1) s = core.run n t := by
  have hs : core.step s = .next t := h
  simp only [Host.Core.run, hs]

/-- What holds at the start of a run and is kept by each of its steps holds at its end. -/
theorem run_invariant {P : State → Prop} {n : Nat} (h : core.run n s = .next u) (hs : P s)
    (hstep : ∀ m x y, m < n → core.run m s = .next x → P x → step x = .next y → P y) : P u := by
  induction n generalizing s with
  | zero => cases h; exact hs
  | succ n ih =>
    obtain ⟨t, hst, hrun⟩ := run_succ h
    refine ih hrun (hstep 0 s t (Nat.succ_pos n) rfl hs hst) fun m x y hm hx => ?_
    exact hstep (m + 1) x y (Nat.succ_lt_succ hm) ((run_succ_of_step hst).trans hx)

/-- A unit inside the bounds of R6 whose global cell `k` exists and reads `v`. -/
structure HoldsGlobal (k : Nat) (v : Int) (s : State) : Prop where
  covered : Sys2Proof.Machine.covered s = true
  spInRange : SpInRange s
  inBounds : (k : Int) < s.params.globalSize
  cell : globalCell s k = v

/-- A step that performs no GSTORE at `k` leaves what global cell `k` holds (R56). -/
theorem HoldsGlobal.step_keeps {k : Nat} {v : Int} (hs : HoldsGlobal k v s) (h : step s = .next t)
    (hk : ¬ PerformsGstore s k) : HoldsGlobal k v t := by
  obtain ⟨ws, wg, hf, -, hwg⟩ := step_frame hs.spInRange.1 h
  exact ⟨hf.covered hs.covered, hf.spInRange hs.spInRange, hf.params ▸ hs.inBounds,
    (hf.globals k fun hc => hk (hwg k hc)).trans hs.cell⟩

/-- A GSTORE at `k` that completes leaves its operand in global cell `k` and every other cell as it was (R145). -/
theorem gstore_step_stores {k : Int} (hi : s.Inv) (hg : PerformsGstore s k) (h : step s = .next t)
    (hr : t.run = .running) :
    0 ≤ k ∧ GlobalSetAt s t k.toNat (topCell s) ∧ HoldsGlobal k.toNat (topCell s) t := by
  obtain ⟨_, _, hframe, -, -⟩ := step_frame hi.spLow h
  obtain ⟨hrun, hfetch⟩ := hg
  rw [step_of_running hrun hi.covered, hfetch] at h
  rcases execGstore_cases h with ⟨-, h0, h1, rfl⟩ | ⟨j, rfl⟩
  · have hset := globalSetAt_globalWrite (s.setSpReg (s.sp - 1)) k.toNat (topCell s)
    refine ⟨h0, hset, hframe.covered hi.covered, hframe.spInRange ⟨hi.spLow, hi.spHigh⟩, ?_, hset.1⟩
    rw [Int.toNat_of_nonneg h0]
    exact h1
  · cases hr

/-- A GLOAD with `k` on top puts what global cell `k` holds on top in its place (R144). -/
theorem HoldsGlobal.gload_step {k : Int} {v : Int} (hs : HoldsGlobal k.toNat v s) (h0 : 0 ≤ k)
    (hr : s.run = .running) (hf : fetchInstr s = .ok .gload) (hsp : 0 ≤ s.sp) (ht : topCell s = k) :
    ∃ t, step s = .next t ∧ t.run = .running ∧ topCell t = v := by
  have hb : topCell s < s.params.globalSize := by
    rw [ht, ← Int.toNat_of_nonneg h0]
    exact hs.inBounds
  have hstep := execGload_of_ok hs.spInRange hsp (ht ▸ h0) hb
  rw [ht, hs.cell] at hstep
  refine ⟨(stackWrite s s.sp.toNat v).setPc (s.pc + 1), ?_, hr, stackCell_stackWrite_self s s.sp.toNat v⟩
  rw [step_of_running hr hs.covered, hf]
  exact hstep

end Steps

/-- Settles O31: a step's frame bounds what it changes, and a run without GSTORE `k` keeps what global cell `k` holds. -/
theorem memoryWriteChangesOneCellOnly : Obligations.MemoryWriteChangesOneCellOnly := by
  refine ⟨fun s i v => ⟨?_, ?_⟩, fun s t k hi h => ?_, fun s s1 u k n hi hg h hr hrun hno hur hgl hsp htop => ?_⟩
  · exact ⟨stackSetAt_stackWrite s i v, sameGlobals_stackWrite s i v, stackWrite_stackWrite s i v v⟩
  · exact ⟨globalSetAt_globalWrite s i v, sameStack_globalWrite s i v, globalWrite_globalWrite s i v v⟩
  · obtain ⟨ws, wg, hf, hws, hwg⟩ := step_frame hi.spLow h
    exact ⟨fun hne => hws k (by_contra fun hk => hne (hf.stack k hk)),
      fun hne => hwg k (by_contra fun hk => hne (hf.globals k hk))⟩
  · obtain ⟨h0, hset, hholds⟩ := gstore_step_stores hi hg h hr
    have hu : HoldsGlobal k.toNat (topCell s) u :=
      run_invariant hrun hholds fun m x y hm hx hP hxy =>
        hP.step_keeps hxy (by rw [Int.toNat_of_nonneg h0]; exact hno m x hm hx)
    exact ⟨hset, hu.gload_step h0 hur hgl hsp htop⟩

end Machine

end Sys2Proof
end

section
/-! SUPPORT. R104, R105 and R108: what Pop, Push and GlobalAddr answer and what they leave unchanged, and the proofs of O27, O28
and O29. -/

namespace Sys2Proof.Machine

/-- Moving the stack pointer changes no cell, so a write after it sets one cell of the state before both (R31, R56). -/
theorem stackSetAt_stackWrite_setSpReg (s : State) (n : Int) (i : Nat) (v : Int) :
    StackSetAt s (stackWrite (s.setSpReg n) i v) i v := by
  obtain ⟨hcell, hother⟩ := stackSetAt_stackWrite (s.setSpReg n) i v
  exact ⟨hcell, fun j hj => (hother j hj).trans (stackCell_setSpReg s n j)⟩

/-- Settles O27: on each side of `sp = 0` Pop has one answer, and the state in it differs in `sp` alone. -/
theorem popReadsTheTopAndKeepsIt : Obligations.PopReadsTheTopAndKeepsIt := by
  refine fun s => ⟨pop_of_neg, fun hsp => ?_⟩
  exact ⟨s.setSpReg (s.sp - 1), pop_of_nonneg hsp, rfl, rfl⟩

/-- Settles O28: with room, Push moves `sp` and then makes one write at the new `sp`. -/
theorem pushWritesTheNewTop : Obligations.PushWritesTheNewTop := by
  refine fun s v => ⟨push_of_full, fun hroom => ?_⟩
  exact ⟨stackWrite (s.setSpReg (s.sp + 1)) (s.sp + 1).toNat v, push_of_room hroom, rfl,
    stackSetAt_stackWrite_setSpReg s (s.sp + 1) (s.sp + 1).toNat v, rfl⟩

/-- Settles O29: inside the bounds `e` is not negative, so the index answered is `e` itself. -/
theorem globalAddrChecksTheBounds : Obligations.GlobalAddrChecksTheBounds := by
  refine fun s e => ⟨globalAddr_of_outOfRange, fun hin => ?_⟩
  obtain ⟨h0, hsize⟩ : 0 ≤ e ∧ e < (s.params.globalSize : Int) := by omega
  exact ⟨e.toNat, globalAddr_of_inRange h0 hsize, Int.toNat_of_nonneg h0⟩

end Sys2Proof.Machine
end

section
/-! SUPPORT. R120, R126 to R130 and R133: what an instruction of one of the two operand forms leaves when it completes and what
it raises on a short stack, the results of the comparisons and of NOT, and the proofs of O38 and O40. -/

namespace Sys2Proof.Machine

/-- An instruction's encoding is its opcode cell and its operands, under every opcode map (R81). -/
theorem encodedAs_opcode_operands (i : Instr) {n : Nat} (hn : Config.params.opc.code i.opcode = (n : Int)) :
    EncodedAs i i.opcode i.operands n :=
  ⟨fun _ => rfl, hn⟩

section OperandForms

variable {s : State} {v : Int}

/-- What a two-operand instruction whose operation does not fault leaves (R120). -/
theorem binaryOp_result {f : Int → Int → Except FaultKind Int} (hi : s.Inv) (hsp : 1 ≤ s.sp)
    (hf : f (secondCell s) (topCell s) = .ok v) :
    ∃ t, finish s (binaryOp f s) = .next t ∧ BinaryResult s t v := by
  refine ⟨(stackWrite (s.setSpReg (s.sp - 1)) (s.sp.toNat - 1) v).setPc (s.pc + 1), ?_, ?_⟩
  · rw [binaryOp_of_ok hsp hi.spHigh hf, finish_ok]
  · exact ⟨⟨rfl, rfl, rfl, rfl, rfl, rfl, rfl, rfl⟩, rfl,
      stackSetAt_stackWrite_setSpReg s (s.sp - 1) (s.sp.toNat - 1) v, fun _ => rfl⟩

/-- What a one-operand instruction leaves (R120). -/
theorem unaryOp_result (f : Int → Int) (hi : s.Inv) (hsp : 0 ≤ s.sp) :
    ∃ t, finish s (unaryOp f s) = .next t ∧ UnaryResult s t (f (topCell s)) := by
  refine ⟨(stackWrite s s.sp.toNat (f (topCell s))).setPc (s.pc + 1), ?_, ?_⟩
  · rw [unaryOp_of_ok f hsp hi.spHigh, finish_ok]
  · exact ⟨⟨rfl, rfl, rfl, rfl, rfl, rfl, rfl, rfl⟩, rfl,
      stackSetAt_stackWrite s s.sp.toNat (f (topCell s)), sameGlobals_stackWrite s s.sp.toNat (f (topCell s))⟩

/-- An instruction whose assignments end in a `raise` raises that fault (R110, R180). -/
theorem raises_of_finish_error {i : Instr} {k : FaultKind} {r : Except FaultKind State}
    (hexec : exec i s = finish s r) (hr : r = .error k) : Raises i s k :=
  ⟨takeFault k s, by rw [hexec, hr, finish_error], rfl, recordFault_kind k s⟩

theorem raises_of_binaryOp_short {i : Instr} {f : Int → Int → Except FaultKind Int}
    (hexec : exec i s = finish s (binaryOp f s)) (hsp : s.sp < 1) : Raises i s .stackUnderflow :=
  raises_of_finish_error hexec (binaryOp_of_short f hsp)

theorem raises_of_unaryOp_empty {i : Instr} {f : Int → Int} (hexec : exec i s = finish s (unaryOp f s))
    (hsp : s.sp < 0) : Raises i s .stackUnderflow :=
  raises_of_finish_error hexec (unaryOp_of_empty f hsp)

end OperandForms

section TruthValues

theorem truthCell_decide (p : Prop) [Decidable p] : truthCell (decide p) = if p then 1 else 0 := by
  simp only [truthCell, decide_eq_true_eq]

theorem logicNot_eq (a : Int) : logicNot a = if a = 1 then 0 else if a = 0 then 1 else a := by
  simp only [logicNot, cellIsTrue, cellIsFalse, decide_eq_true_eq]

/-- What a comparison by the relation `r` leaves: `r` is asked of the first-pushed cell and the top (R126 to R130, R137). -/
theorem comparison_result (r : Int → Int → Prop) [DecidableRel r] {s : State} (hi : s.Inv) (hsp : 1 ≤ s.sp) :
    ∃ t, finish s (binaryOp (fun a b => .ok (truthCell (decide (r a b)))) s) = .next t ∧
      BinaryResult s t (if r (secondCell s) (topCell s) then 1 else 0) :=
  binaryOp_result hi hsp (congrArg Except.ok (truthCell_decide (r (secondCell s) (topCell s))))

end TruthValues

/-- Settles O38: each comparison is the two-operand form with the truth cell of its relation. -/
theorem comparisonsPushOneOrZero : Obligations.ComparisonsPushOneOrZero := by
  refine ⟨encodedAs_opcode_operands .lt rfl, encodedAs_opcode_operands .gt rfl, encodedAs_opcode_operands .leq rfl,
    encodedAs_opcode_operands .geq rfl, encodedAs_opcode_operands .eq rfl, fun s hi hsp => ?_, fun s hsp => ?_⟩
  · exact ⟨comparison_result (· < ·) hi hsp, comparison_result (· > ·) hi hsp, comparison_result (· ≤ ·) hi hsp,
      comparison_result (· ≥ ·) hi hsp, comparison_result (· = ·) hi hsp⟩
  · exact ⟨raises_of_binaryOp_short rfl hsp, raises_of_binaryOp_short rfl hsp, raises_of_binaryOp_short rfl hsp,
      raises_of_binaryOp_short rfl hsp, raises_of_binaryOp_short rfl hsp⟩

/-- Settles O40: NOT is the one-operand form, and its operation changes only the cells 1 and 0. -/
theorem notSwapsOneAndZeroOnly : Obligations.NotSwapsOneAndZeroOnly := by
  refine ⟨encodedAs_opcode_operands .not rfl, fun s hi hsp => ?_, fun s hsp => raises_of_unaryOp_empty rfl hsp⟩
  rw [← logicNot_eq]
  exact unaryOp_result logicNot hi hsp

end Sys2Proof.Machine
end

section
/-! SUPPORT. R103 and R140 to R145: the fault of a missing inline cell, what the stack and memory instructions leave when they
complete and what they raise, and the proofs of O41 to O46. -/

namespace Sys2Proof.Machine

section MissingOperand

variable {o : Opcode} {s : State}

/-- An opcode cell with too few inline cells behind it faults in its fetch (R83, R103). -/
theorem fetchInstr_of_operandCellMissing (h : OperandCellMissing o s) :
    fetchInstr s = .error .outOfBoundsMemoryAccess := by
  obtain ⟨hpc, -⟩ := List.getElem?_eq_some_iff.mp h.opcode
  have hnone : takeOperands o (s.prog.drop (s.pc.toNat + 1)) = none := by
    rw [takeOperands_eq_none, List.length_drop]
    have hshort := h.short
    omega
  simp only [fetchInstr_at h.pcLow h.opcode, opcodeOf?_code (opc_injective h.covered) o, hnone]

theorem stepRaises_of_operandCellMissing (h : OperandCellMissing o s) : StepRaises s .outOfBoundsMemoryAccess := by
  refine ⟨takeFault .outOfBoundsMemoryAccess s, ?_, rfl, recordFault_kind .outOfBoundsMemoryAccess s⟩
  rw [step_of_running h.running h.covered, fetchInstr_of_operandCellMissing h]

end MissingOperand

section CompletedRules

variable {s t : State} {pc sp fp : Int}

theorem completed_setSpReg (s : State) (n : Int) : Completed s (s.setSpReg n) s.pc n s.fp :=
  ⟨rfl, rfl, rfl, rfl, rfl, rfl, rfl, rfl⟩

theorem Completed.setPc (h : Completed s t pc sp fp) (p : Int) : Completed s (t.setPc p) p sp fp :=
  { h with pc := rfl }

theorem Completed.stackWrite (h : Completed s t pc sp fp) (i : Nat) (v : Int) :
    Completed s (stackWrite t i v) pc sp fp := { h with }

theorem Completed.globalWrite (h : Completed s t pc sp fp) (i : Nat) (v : Int) :
    Completed s (globalWrite t i v) pc sp fp := { h with }

/-- Writing over the top and going on to the next opcode cell is the frame of one popped operand (R120). -/
theorem unaryResult_stackWrite_setPc (s : State) (v : Int) :
    UnaryResult s ((stackWrite s s.sp.toNat v).setPc (s.pc + 1)) v :=
  ⟨((completed_setSpReg s s.sp).stackWrite s.sp.toNat v).setPc (s.pc + 1), rfl,
    stackSetAt_stackWrite s s.sp.toNat v, sameGlobals_stackWrite s s.sp.toNat v⟩

end CompletedRules

section Raising

variable {i : Instr} {s : State} {k : FaultKind} {α β : Type}

/-- A sequence raises what its first part raises (R11). -/
theorem bind_eq_error {x : Except FaultKind α} {f : α → Except FaultKind β} (h : x = .error k) :
    x >>= f = .error k := by
  rw [h, error_bind]

/-- An instruction that begins with a pop raises StackUnderflow on an empty stack (R104, R172). -/
theorem raises_of_pop_empty {f : Int × State → Except FaultKind State} (hexec : exec i s = finish s (pop s >>= f))
    (hsp : s.sp < 0) : Raises i s .stackUnderflow :=
  raises_of_finish_error hexec (bind_eq_error (pop_of_neg hsp))

/-- An instruction that raises a fault after its first pop has succeeded raises that fault (R11, R176). -/
theorem raises_of_error_after_pop {f : Int × State → Except FaultKind State}
    (hexec : exec i s = finish s (pop s >>= f)) (hsp : 0 ≤ s.sp)
    (hf : f (topCell s, s.setSpReg (s.sp - 1)) = .error k) : Raises i s k :=
  raises_of_finish_error hexec (by rw [pop_of_nonneg hsp, ok_bind, hf])

end Raising

section Completing

variable {s : State}

theorem execConst_of_room {literal : Int} (h : s.sp < (s.params.stackCap : Int) - 1) :
    execConst literal s =
      .next ((stackWrite (s.setSpReg (s.sp + 1)) (s.sp + 1).toNat literal).setPc (s.pc + 2)) := by
  simp only [execConst, push_of_room (v := literal) (Int.add_one_le_of_lt h), ok_bind, advance_one, stackWrite_pc,
    State.setSpReg_pc, finish_ok]

theorem execPop_of_nonneg (h : 0 ≤ s.sp) : execPop s = .next ((s.setSpReg (s.sp - 1)).setPc (s.pc + 1)) := by
  simp only [execPop, pop_of_nonneg h, ok_bind, advance_zero, State.setSpReg_pc, finish_ok]

/-- The loaded cell replaces the index (R142). -/
theorem execLoad_of_ok (hs : s.sp ≤ (s.params.stackCap : Int) - 1) (h0 : 0 ≤ s.sp)
    (he : 0 ≤ loadIndex s.fp (topCell s)) (hcap : loadIndex s.fp (topCell s) < (s.params.stackCap : Int)) :
    execLoad s =
      .next ((stackWrite s s.sp.toNat (stackCell s (loadIndex s.fp (topCell s)).toNat)).setPc (s.pc + 1)) := by
  have haddr : stackAddr (loadIndex s.fp (topCell s)) (s.setSpReg (s.sp - 1)) =
      .ok (loadIndex s.fp (topCell s)).toNat := stackAddr_of_inRange he hcap
  simp only [execLoad, pop_of_nonneg h0, ok_bind, State.setSpReg_fp, haddr, stackCell_setSpReg, push_after_pop hs,
    advance_zero, stackWrite_pc, finish_ok]

/-- The popped value goes to its frame cell, above the top or not (R143). -/
theorem execStore_of_ok {offset : Int} (h0 : 0 ≤ s.sp) (he : 0 ≤ storeIndex s.fp offset)
    (hcap : storeIndex s.fp offset < (s.params.stackCap : Int)) :
    execStore offset s =
      .next ((stackWrite (s.setSpReg (s.sp - 1)) (storeIndex s.fp offset).toNat (topCell s)).setPc (s.pc + 2)) := by
  have haddr : stackAddr (storeIndex s.fp offset) (s.setSpReg (s.sp - 1)) = .ok (storeIndex s.fp offset).toNat :=
    stackAddr_of_inRange he hcap
  simp only [execStore, pop_of_nonneg h0, ok_bind, State.setSpReg_fp, haddr, advance_one, stackWrite_pc,
    State.setSpReg_pc, finish_ok]

/-- The popped value goes to the global cell of the inline address (R145). -/
theorem execGstore_of_ok {addr : Int} (h0 : 0 ≤ s.sp) (ha : 0 ≤ addr) (hb : addr < (s.params.globalSize : Int)) :
    execGstore addr s =
      .next ((globalWrite (s.setSpReg (s.sp - 1)) addr.toNat (topCell s)).setPc (s.pc + 2)) := by
  have haddr : globalAddr addr (s.setSpReg (s.sp - 1)) = .ok addr.toNat := globalAddr_of_inRange ha hb
  simp only [execGstore, pop_of_nonneg h0, ok_bind, haddr, advance_one, globalWrite_pc, State.setSpReg_pc, finish_ok]

end Completing

/-- LOAD's two formulas leave out the three cells that CALL saves (R142, R154). -/
theorem loadIndex_skips_bookkeeping (fp a : Int) : loadIndex fp a < fp - 2 ∨ fp < loadIndex fp a := by
  unfold loadIndex
  split <;> omega

/-- Settles O41: with room CONST is one push, on a full stack that push raises, and a missing literal ends the fetch. -/
theorem constPushesItsLiteral : Obligations.ConstPushesItsLiteral := by
  refine ⟨fun literal => encodedAs_opcode_operands (.const literal) rfl, fun s literal _ hroom => ?_,
    fun s literal hfull => ?_, fun s => stepRaises_of_operandCellMissing⟩
  · exact ⟨_, execConst_of_room hroom, ((completed_setSpReg s (s.sp + 1)).stackWrite _ _).setPc _, rfl,
      stackSetAt_stackWrite_setSpReg s (s.sp + 1) (s.sp + 1).toNat literal, fun _ => rfl⟩
  · have hover : (s.params.stackCap : Int) - 1 < s.sp + 1 := by omega
    exact raises_of_finish_error rfl (bind_eq_error (push_of_full hover))

/-- Settles O42: POP moves the stack pointer and writes no cell. -/
theorem popDiscardsTheTop : Obligations.PopDiscardsTheTop := by
  refine ⟨encodedAs_opcode_operands .pop rfl, fun s hsp => ?_, fun s => raises_of_pop_empty rfl⟩
  exact ⟨_, execPop_of_nonneg hsp, (completed_setSpReg s (s.sp - 1)).setPc _, rfl, fun _ => rfl, fun _ => rfl⟩

/-- Settles O43: the popped index is checked against the whole stack, and its cell is pushed where the index was. -/
theorem loadReadsTheFrameCell : Obligations.LoadReadsTheFrameCell := by
  refine ⟨encodedAs_opcode_operands .load rfl, fun s e hi hsp he => ?_, fun s => raises_of_pop_empty rfl⟩
  obtain rfl : e = loadIndex s.fp (topCell s) := he
  refine ⟨fun h0 hcap => ?_, fun hout => ?_, ?_⟩
  · exact ⟨_, execLoad_of_ok hi.spHigh hsp h0 (by omega), unaryResult_stackWrite_setPc s _⟩
  · have hbound := hout.imp_right Int.le_of_sub_one_lt
    exact raises_of_error_after_pop rfl hsp (bind_eq_error (stackAddr_of_outOfRange hbound))
  · have hskip := loadIndex_skips_bookkeeping s.fp (topCell s)
    omega

/-- Settles O44: the inline offset's index is checked against the whole stack, and the popped value is written there. -/
theorem storeWritesTheFrameCell : Obligations.StoreWritesTheFrameCell := by
  refine ⟨fun offset => encodedAs_opcode_operands (.store offset) rfl, fun s offset e hsp he => ?_,
    fun s offset => raises_of_pop_empty rfl, fun s => stepRaises_of_operandCellMissing⟩
  obtain rfl : e = storeIndex s.fp offset := he
  refine ⟨fun h0 hcap => ?_, fun hout => ?_⟩
  · exact ⟨_, execStore_of_ok hsp h0 (by omega), ((completed_setSpReg s (s.sp - 1)).stackWrite _ _).setPc _, rfl,
      stackSetAt_stackWrite_setSpReg s (s.sp - 1) (storeIndex s.fp offset).toNat (topCell s), fun _ => rfl⟩
  · have hbound := hout.imp_right Int.le_of_sub_one_lt
    exact raises_of_error_after_pop rfl hsp (bind_eq_error (stackAddr_of_outOfRange hbound))

/-- Settles O45: the popped address is checked against global memory, and its cell is pushed where the address was. -/
theorem gloadReadsTheGlobalCell : Obligations.GloadReadsTheGlobalCell := by
  refine ⟨encodedAs_opcode_operands .gload rfl, fun s hi hsp ha hb => ?_, fun s hsp hout => ?_,
    fun s => raises_of_pop_empty rfl⟩
  · exact ⟨_, execGload_of_ok ⟨hi.spLow, hi.spHigh⟩ hsp ha hb, unaryResult_stackWrite_setPc s _⟩
  · exact raises_of_error_after_pop rfl hsp (bind_eq_error (globalAddr_of_outOfRange hout))

/-- Settles O46: the inline address is checked against global memory, and the popped value is written there. -/
theorem gstoreWritesTheGlobalCell : Obligations.GstoreWritesTheGlobalCell := by
  refine ⟨fun addr => encodedAs_opcode_operands (.gstore addr) rfl, fun s addr hsp ha hb => ?_,
    fun s addr hsp hout => ?_, fun s addr => raises_of_pop_empty rfl, fun s => stepRaises_of_operandCellMissing⟩
  · exact ⟨_, execGstore_of_ok hsp ha hb, ((completed_setSpReg s (s.sp - 1)).globalWrite _ _).setPc _, rfl,
      globalSetAt_globalWrite (s.setSpReg (s.sp - 1)) addr.toNat (topCell s), fun _ => rfl⟩
  · exact raises_of_error_after_pop rfl hsp (bind_eq_error (globalAddr_of_outOfRange hout))

end Sys2Proof.Machine
end

section
/-! SUPPORT. R151 to R153: what JMP and the two conditional jumps leave when they complete and what they raise on a short
stack, and the proofs of O47 to O49. -/

namespace Sys2Proof.Machine

section Jumps

variable {s : State}

/-- The popped cell goes to pc unchecked (R150, R151). -/
theorem execJmp_of_nonneg (h : 0 ≤ s.sp) :
    execJmp s = .next ((s.setSpReg (s.sp - 1)).setPc (topCell s)) := by
  simp only [execJmp, pop_of_nonneg h, ok_bind, finish_ok]

/-- What a jump that is taken when `p` holds of the condition leaves (R152, R153): only pc depends on `p`. -/
theorem condJump_result (p : Int → Prop) [DecidablePred p] (hsp : 1 ≤ s.sp) :
    ∃ t, finish s (condJump (fun c => decide (p c)) s) = .next t ∧
      Completed s t (if p (secondCell s) then topCell s else s.pc + 1) (s.sp - 2) s.fp ∧ t.out = s.out ∧
      SameStack s t ∧ SameGlobals s t := by
  refine ⟨(s.setSpReg (s.sp - 2)).setPc (if p (secondCell s) then topCell s else s.pc + 1), ?_, ?_⟩
  · have hsp2 : s.sp - 1 - 1 = s.sp - 2 := Int.sub_sub s.sp 1 1
    simp only [condJump_of_ok _ hsp, hsp2, decide_eq_true_eq, finish_ok]
  · exact ⟨(completed_setSpReg s (s.sp - 2)).setPc _, rfl, fun _ => rfl, fun _ => rfl⟩

/-- A jump whose condition fails goes on at `p + 1` (R152, R153). -/
theorem condJump_falls_through (p : Int → Prop) [DecidablePred p] (hsp : 1 ≤ s.sp) (hp : ¬ p (secondCell s)) :
    ∃ t, finish s (condJump (fun c => decide (p c)) s) = .next t ∧ t.pc = s.pc + 1 := by
  obtain ⟨t, hnext, hcompleted, -⟩ := condJump_result p hsp
  exact ⟨t, hnext, hcompleted.pc.trans (if_neg hp)⟩

theorem raises_of_condJump_short {i : Instr} {taken : Int → Bool} (hexec : exec i s = finish s (condJump taken s))
    (hsp : s.sp < 1) : Raises i s .stackUnderflow :=
  raises_of_finish_error hexec (condJump_of_short taken hsp)

end Jumps

/-- Settles O47: JMP is one pop, and the popped cell becomes pc whatever it is. -/
theorem jmpGoesToThePoppedTarget : Obligations.JmpGoesToThePoppedTarget := by
  refine ⟨encodedAs_opcode_operands .jmp rfl, fun s hsp => ?_, fun s => raises_of_pop_empty rfl⟩
  exact ⟨_, execJmp_of_nonneg hsp, (completed_setSpReg s (s.sp - 1)).setPc _, rfl, fun _ => rfl, fun _ => rfl⟩

/-- Settles O48: JMPT is the conditional jump that is taken on exactly the cell 1. -/
theorem jmptIsTakenOnlyOnExactlyOne : Obligations.JmptIsTakenOnlyOnExactlyOne :=
  ⟨encodedAs_opcode_operands .jmpt rfl, fun _ hsp => condJump_result (· = 1) hsp,
    fun _ => raises_of_condJump_short rfl⟩

/-- Settles O49: JMPF is the conditional jump that is taken on exactly the cell 0, so a third value takes neither jump. -/
theorem jmpfIsTakenOnlyOnExactlyZero : Obligations.JmpfIsTakenOnlyOnExactlyZero := by
  refine ⟨encodedAs_opcode_operands .jmpf rfl, fun _ hsp => condJump_result (· = 0) hsp,
    fun _ => raises_of_condJump_short rfl, fun s hsp hzero hone => ?_⟩
  obtain ⟨t, hjmpf, htpc⟩ := condJump_falls_through (· = 0) hsp hzero
  obtain ⟨u, hjmpt, hupc⟩ := condJump_falls_through (· = 1) hsp hone
  exact ⟨t, u, hjmpf, hjmpt, htpc, hupc⟩

end Sys2Proof.Machine
end

section
/-! SUPPORT. R42, R109 and R160: what the output port presents, what PRINT leaves when it completes and on an empty stack, and
the proof of O54. -/

namespace Sys2Proof.Machine

section OutputPort

variable {s t : State} {v : Int}

/-- A step that emits nothing presents nothing on the port (R42). -/
theorem outPort_of_out_eq (h : t.out = s.out) : outPort s t = none := by
  rw [outPort, h, List.drop_length, List.head?_nil]

/-- A step that emits one cell presents that cell on the port (R42, R109). -/
theorem outPort_of_out_append (h : t.out = s.out ++ [v]) : outPort s t = some v := by
  rw [outPort, h, List.drop_left, List.head?_singleton]

end OutputPort

section Print

variable {s t : State} {pc sp fp : Int}

theorem Completed.setOut (h : Completed s t pc sp fp) (v : List Int) : Completed s (t.setOut v) pc sp fp := { h with }

/-- The popped cell goes to OUT (R109, R160). -/
theorem execPrint_of_nonneg (h : 0 ≤ s.sp) :
    execPrint s = .next (((s.setSpReg (s.sp - 1)).setOut (s.out ++ [topCell s])).setPc (s.pc + 1)) := by
  simp only [execPrint, pop_of_nonneg h, ok_bind, emit_eq, advance_zero, State.setOut_pc, State.setSpReg_pc,
    State.setSpReg_out, finish_ok]

/-- The fault of the pop comes before the emission (R104, R160). -/
theorem execPrint_of_neg (h : s.sp < 0) : execPrint s = .next (takeFault .stackUnderflow s) := by
  rw [execPrint, pop_of_neg h, error_bind, finish_error]

end Print

/-- Settles O54: PRINT is one pop and one emission; on an empty stack its pop raises, and a fault leaves OUT as it was. -/
theorem printEmitsTheTopOnce : Obligations.PrintEmitsTheTopOnce := by
  refine ⟨encodedAs_opcode_operands .print rfl, fun s hsp => ?_, fun s hsp => ⟨raises_of_pop_empty rfl hsp, ?_⟩⟩
  · exact ⟨_, execPrint_of_nonneg hsp, ((completed_setSpReg s (s.sp - 1)).setOut _).setPc _, rfl,
      outPort_of_out_append rfl, fun _ => rfl, fun _ => rfl⟩
  · have hout := takeFault_out .stackUnderflow s
    exact ⟨_, execPrint_of_neg hsp, hout, outPort_of_out_eq hout⟩

end Sys2Proof.Machine
end

section
/-! SUPPORT. R170 to R176: the fault of an instruction is that of its row of the fault table, the table read by fault, the
fault of a step is that of its fetch or of its instruction, and the proofs of O22 and O56 to O59. -/

namespace Sys2Proof.Machine

section FollowsRow

/-- The answer `r` of an instruction at `s` agrees with its row of R176: it raises the fault the row names, or the row names
none and it completes without a fault. Only above the stack, where no unit with the invariant is, can a push overflow that
the row does not name. -/
inductive FollowsRow (s : State) : Option FaultKind → Except FaultKind State → Prop
  | completes {t : State} (hrun : t.run = s.run ∨ t.run = .halted) : FollowsRow s none (.ok t)
  | raises (k : FaultKind) : FollowsRow s (some k) (.error k)
  | overfull (hsp : (s.params.stackCap : Int) - 1 < s.sp) : FollowsRow s none (.error .stackOverflow)

variable {s u : State} {row : Option FaultKind} {k : FaultKind} {v e : Int}

theorem FollowsRow.of_row_eq_some (h : row = some k) : FollowsRow s row (.error k) := h ▸ .raises k

theorem FollowsRow.of_row_eq_none {t : State} (h : row = none) (hrun : t.run = s.run) : FollowsRow s row (.ok t) :=
  h ▸ .completes (.inl hrun)

theorem FollowsRow.run_of_ok {t : State} (h : FollowsRow s row (.ok t)) : t.run = s.run ∨ t.run = .halted := by
  cases h
  assumption

/-- A sequence that begins with `Pop` (R104). -/
theorem FollowsRow.pop_bind {f : Int × State → Except FaultKind State}
    (hempty : u.sp < 0 → row = some .stackUnderflow)
    (hok : 0 ≤ u.sp → FollowsRow s row (f (topCell u, u.setSpReg (u.sp - 1)))) : FollowsRow s row (pop u >>= f) := by
  rcases pop_cases u with ⟨h, hpop⟩ | ⟨h, hpop⟩
  · rw [hpop, error_bind]
    exact .of_row_eq_some (hempty h)
  · rw [hpop, ok_bind]
    exact hok h

/-- A sequence that begins with `Push` (R105). -/
theorem FollowsRow.push_bind {f : State → Except FaultKind State}
    (hfull : (u.params.stackCap : Int) - 1 < u.sp + 1 → FollowsRow s row (.error .stackOverflow))
    (hok : u.sp + 1 ≤ (u.params.stackCap : Int) - 1 →
      FollowsRow s row (f (stackWrite (u.setSpReg (u.sp + 1)) (u.sp + 1).toNat v))) :
    FollowsRow s row (push v u >>= f) := by
  rcases push_cases v u with ⟨h, hpush⟩ | ⟨h, hpush⟩
  · rw [hpush, error_bind]
    exact hfull h
  · rw [hpush, ok_bind]
    exact hok h

/-- A sequence that begins with `SetSP` (R106). -/
theorem FollowsRow.setSp_bind {f : State → Except FaultKind State}
    (hhigh : (u.params.stackCap : Int) - 1 < e → row = some .stackOverflow)
    (hlow : e ≤ (u.params.stackCap : Int) - 1 → e < -1 → row = some .stackUnderflow)
    (hok : -1 ≤ e → e ≤ (u.params.stackCap : Int) - 1 → FollowsRow s row (f (u.setSpReg e))) :
    FollowsRow s row (setSp e u >>= f) := by
  rcases setSp_cases e u with ⟨h, hset⟩ | ⟨h, h', hset⟩ | ⟨h, h', hset⟩
  · rw [hset, error_bind]
    exact .of_row_eq_some (hhigh h)
  · rw [hset, error_bind]
    exact .of_row_eq_some (hlow h h')
  · rw [hset, ok_bind]
    exact hok h h'

/-- The last push of an instruction that has popped more than it pushes: it has room wherever the stack was not overfull. -/
theorem FollowsRow.push_after_pops (hsp : u.sp < s.sp) (hparams : u.params = s.params) (hrun : u.run = s.run) :
    FollowsRow s none (push v u >>= fun s2 => .ok (advance 0 s2)) := by
  refine .push_bind (fun h => .overfull ?_) fun _ => .completes (.inl hrun)
  rw [← hparams]
  omega

/-- Two pops and what follows them, in the order of R84. -/
theorem FollowsRow.pop_pop_bind {f : Int → Int → State → Except FaultKind State}
    (hok : 1 ≤ s.sp → FollowsRow s row (f (topCell s) (secondCell s) (s.setSpReg (s.sp - 1 - 1)))) :
    FollowsRow s (if s.sp < 1 then some .stackUnderflow else row)
      (do let (b, s1) ← pop s
          let (a, s2) ← pop s1
          f b a s2) := by
  rcases lt_or_ge s.sp 1 with h | h
  · rw [pop_pop_of_short h, if_pos h]
    exact .raises _
  · obtain ⟨hfirst, hsecond⟩ := pop_pop h
    rw [if_neg (Int.not_lt.mpr h), hfirst, ok_bind]
    simp only [hsecond, ok_bind]
    exact hok h

end FollowsRow

section Rows

variable {s : State} {k : FaultKind}

theorem needTwo_eq_some : needTwo s = some k ↔ k = .stackUnderflow ∧ s.sp < 1 := by
  grind [needTwo]

theorem needOne_eq_some : needOne s = some k ↔ k = .stackUnderflow ∧ s.sp < 0 := by
  grind [needOne]

theorem divisionRow_eq_some : divisionRow s = some k ↔
    k = .stackUnderflow ∧ s.sp < 1 ∨ k = .arithmeticFault ∧ 1 ≤ s.sp ∧ topCell s = 0 := by
  grind [divisionRow]

theorem addressRow_eq_some {e : Int} {size : Nat} : addressRow s e size = some k ↔
    k = .stackUnderflow ∧ s.sp < 0 ∨ k = .outOfBoundsMemoryAccess ∧ 0 ≤ s.sp ∧ (e < 0 ∨ e ≥ (size : Int)) := by
  grind [addressRow]

theorem callRow_eq_some {l : Int} : callRow s l = some k ↔
    k = .stackOverflow ∧
      (s.sp + 3 > (s.params.stackCap : Int) - 1 ∨ s.sp + 3 + l > (s.params.stackCap : Int) - 1) ∨
    k = .stackUnderflow ∧ s.sp + 3 ≤ (s.params.stackCap : Int) - 1 ∧ s.sp + 3 + l < -1 := by
  grind [callRow]

theorem callRow_eq_none {l : Int} : callRow s l = none ↔
    s.sp + 3 ≤ (s.params.stackCap : Int) - 1 ∧ -1 ≤ s.sp + 3 + l ∧
      s.sp + 3 + l ≤ (s.params.stackCap : Int) - 1 := by
  grind [callRow]

theorem retRow_eq_some : retRow s = some k ↔
    k = .stackOverflow ∧ 0 ≤ s.sp ∧ (s.fp > (s.params.stackCap : Int) - 1 ∨
      2 ≤ s.fp ∧ s.fp - 3 - stackCell s (s.fp.toNat - 2) > (s.params.stackCap : Int) - 2) ∨
    k = .stackUnderflow ∧ (s.sp < 0 ∨ s.fp ≤ (s.params.stackCap : Int) - 1 ∧
      (s.fp < 2 ∨ s.fp - 3 - stackCell s (s.fp.toNat - 2) < -1)) := by
  grind [retRow]

theorem retRow_eq_none : retRow s = none ↔
    0 ≤ s.sp ∧ s.fp ≤ (s.params.stackCap : Int) - 1 ∧ 2 ≤ s.fp ∧
      -1 ≤ s.fp - 3 - stackCell s (s.fp.toNat - 2) ∧
      s.fp - 3 - stackCell s (s.fp.toNat - 2) ≤ (s.params.stackCap : Int) - 2 := by
  grind [retRow]

end Rows

section Forms

variable {s : State}

/-- A two-operand instruction whose operation does not fault (R120). -/
theorem binaryOp_followsRow (f : Int → Int → Int) :
    FollowsRow s (needTwo s) (binaryOp (fun a b => .ok (f a b)) s) :=
  .pop_pop_bind (f := fun b a s2 => push (f a b) s2 >>= fun s3 => .ok (advance 0 s3)) fun _ =>
    .push_after_pops (by simp only [State.setSpReg_sp]; omega) rfl rfl

/-- DIV and MOD: the divisor is tested after both pops and before the push (R124, R125). -/
theorem division_followsRow (f : Int → Int → Int) :
    FollowsRow s (divisionRow s)
      (binaryOp (fun a b => if b = 0 then .error .arithmeticFault else .ok (f a b)) s) := by
  refine .pop_pop_bind (row := if topCell s = 0 then some .arithmeticFault else none)
    (f := fun b a s2 => (if b = 0 then .error .arithmeticFault else .ok (f a b)) >>= fun v =>
      push v s2 >>= fun s3 => .ok (advance 0 s3)) fun _ => ?_
  by_cases hzero : topCell s = 0
  · rw [if_pos hzero, if_pos hzero, error_bind]
    exact .raises _
  · rw [if_neg hzero, if_neg hzero, ok_bind]
    exact .push_after_pops (by simp only [State.setSpReg_sp]; omega) rfl rfl

/-- JMPT and JMPF pop twice whether or not the jump is taken (R152, R153). -/
theorem condJump_followsRow (taken : Int → Bool) : FollowsRow s (needTwo s) (condJump taken s) := by
  refine .pop_pop_bind (f := fun target cond s2 => .ok (if taken cond then s2.setPc target else advance 0 s2))
    fun _ => .completes (.inl ?_)
  split <;> rfl

/-- One popped operand, and then nothing that the row names. -/
theorem FollowsRow.needOne_bind {f : Int × State → Except FaultKind State}
    (hok : FollowsRow s none (f (topCell s, s.setSpReg (s.sp - 1)))) : FollowsRow s (needOne s) (pop s >>= f) := by
  refine .pop_bind (fun h => if_pos h) fun h => ?_
  rwa [needOne, if_neg (Int.not_lt.mpr h)]

/-- A one-operand instruction (R120). -/
theorem unaryOp_followsRow (f : Int → Int) : FollowsRow s (needOne s) (unaryOp f s) :=
  .needOne_bind (.push_after_pops (by simp only [State.setSpReg_sp]; omega) rfl rfl)

/-- One popped operand and then an address check `addr` of `e` against `size` cells (R107, R108). -/
theorem FollowsRow.addressRow_bind {addr : Except FaultKind Nat} {e : Int} {size : Nat}
    {f : Nat → Except FaultKind State} {g : Int × State → Except FaultKind State}
    (hg : g (topCell s, s.setSpReg (s.sp - 1)) = addr >>= f)
    (hin : 0 ≤ e → e < (size : Int) → addr = .ok e.toNat)
    (hout : e < 0 ∨ (size : Int) ≤ e → addr = .error .outOfBoundsMemoryAccess)
    (hok : FollowsRow s none (f e.toNat)) : FollowsRow s (addressRow s e size) (pop s >>= g) := by
  refine .pop_bind (fun h => if_pos h) fun h => ?_
  rw [hg, addressRow, if_neg (Int.not_lt.mpr h)]
  by_cases hb : e < 0 ∨ (size : Int) ≤ e
  · rw [if_pos hb, hout hb, error_bind]
    exact .raises _
  · rw [if_neg hb, hin (by omega) (by omega), ok_bind]
    exact hok

/-- CONST is one push (R140). -/
theorem execConst_followsRow (literal : Int) :
    ∃ r, execConst literal s = finish s r ∧ FollowsRow s (faultTable (.const literal) s) r := by
  refine ⟨_, rfl, .push_bind (fun h => ?_) fun h => .of_row_eq_none (if_neg (by omega)) rfl⟩
  rcases Int.lt_or_eq_of_le (Int.le_of_lt_add_one h) with hover | hfull
  · rw [faultTable, if_neg (Int.ne_of_gt hover)]
    exact .overfull hover
  · exact .of_row_eq_some (if_pos hfull.symm)

/-- CALL: three pushes, then the reservation of the locals (R154, R155). -/
theorem execCall_followsRow (target argcount localcount : Int) :
    ∃ r, execCall target argcount localcount s = finish s r ∧ FollowsRow s (callRow s localcount) r := by
  have hpushes (h : (s.params.stackCap : Int) - 1 < s.sp + 3) :
      FollowsRow s (callRow s localcount) (.error .stackOverflow) :=
    .of_row_eq_some (callRow_eq_some.mpr (.inl ⟨rfl, .inl h⟩))
  refine ⟨_, rfl, .push_bind (fun h => hpushes (by omega)) fun _ => ?_⟩
  refine .push_bind (fun (h : (s.params.stackCap : Int) - 1 < s.sp + 1 + 1) => hpushes (by omega)) fun _ => ?_
  refine .push_bind (fun (h : (s.params.stackCap : Int) - 1 < s.sp + 1 + 1 + 1) => hpushes (by omega))
    fun (hroom : s.sp + 1 + 1 + 1 ≤ (s.params.stackCap : Int) - 1) => ?_
  have hsp : s.sp + 1 + 1 + 1 = s.sp + 3 := by omega
  change FollowsRow s (callRow s localcount) (setSp (s.sp + 1 + 1 + 1 + localcount) _ >>= _)
  rw [hsp] at hroom ⊢
  refine .setSp_bind (fun h => callRow_eq_some.mpr (.inl ⟨rfl, .inr h⟩))
    (fun _ h => callRow_eq_some.mpr (.inr ⟨rfl, hroom, h⟩))
    fun hlow (hhigh : s.sp + 3 + localcount ≤ (s.params.stackCap : Int) - 1) => .of_row_eq_none ?_ rfl
  exact callRow_eq_none.mpr ⟨hroom, hlow, hhigh⟩

/-- RET: the return value's pop, the frame's discard, three pops of the saved cells, the arguments' drop and the push of the
return value (R156). -/
theorem execRet_followsRow : ∃ r, execRet s = finish s r ∧ FollowsRow s (retRow s) r := by
  refine ⟨_, rfl, .pop_bind (fun h => retRow_eq_some.mpr (.inr ⟨rfl, .inl h⟩)) fun hsp => ?_⟩
  refine .setSp_bind (fun h => retRow_eq_some.mpr (.inl ⟨rfl, hsp, .inl h⟩))
    (fun h h' => retRow_eq_some.mpr (.inr ⟨rfl, .inr ⟨h, .inl (Int.lt_trans h' (by decide))⟩⟩))
    fun _ (hcap : s.fp ≤ (s.params.stackCap : Int) - 1) => ?_
  have hframe (h : s.fp < 2) : retRow s = some .stackUnderflow :=
    retRow_eq_some.mpr (.inr ⟨rfl, .inr ⟨hcap, .inl h⟩⟩)
  refine .pop_bind (fun (h : s.fp < 0) => hframe (by omega)) fun _ => ?_
  refine .pop_bind (fun (h : s.fp - 1 < 0) => hframe (by omega)) fun _ => ?_
  refine .pop_bind (fun (h : s.fp - 1 - 1 < 0) => hframe (by omega)) fun (hfp : 0 ≤ s.fp - 1 - 1) => ?_
  have htarget : s.fp - 1 - 1 - 1 - stackCell s (s.fp - 1 - 1).toNat = s.fp - 3 - stackCell s (s.fp.toNat - 2) := by
    rw [show (s.fp - 1 - 1).toNat = s.fp.toNat - 2 by omega]
    omega
  change FollowsRow s (retRow s) (setSp (s.fp - 1 - 1 - 1 - stackCell s (s.fp - 1 - 1).toNat) _ >>= _)
  rw [htarget]
  have hdrop (h : s.fp - 3 - stackCell s (s.fp.toNat - 2) > (s.params.stackCap : Int) - 2) :
      retRow s = some .stackOverflow := retRow_eq_some.mpr (.inl ⟨rfl, hsp, .inr ⟨by omega, h⟩⟩)
  refine .setSp_bind (fun (h : (s.params.stackCap : Int) - 1 < _) => hdrop (by omega))
    (fun _ h => retRow_eq_some.mpr (.inr ⟨rfl, .inr ⟨hcap, .inr h⟩⟩)) fun hlow _ => ?_
  refine .push_bind
    (fun (h : (s.params.stackCap : Int) - 1 < s.fp - 3 - stackCell s (s.fp.toNat - 2) + 1) =>
      .of_row_eq_some (hdrop (by omega)))
    fun (hroom : s.fp - 3 - stackCell s (s.fp.toNat - 2) + 1 ≤ (s.params.stackCap : Int) - 1) =>
      .of_row_eq_none ?_ rfl
  exact retRow_eq_none.mpr ⟨hsp, hcap, by omega, hlow, by omega⟩

end Forms

/-- Every instruction in every state answers as its row of R176 says. -/
theorem exec_followsRow (i : Instr) (s : State) :
    ∃ r, exec i s = finish s r ∧ FollowsRow s (faultTable i s) r := by
  cases i with
  | add | sub | mul | lt | gt | leq | geq | eq | and | or => exact ⟨_, rfl, binaryOp_followsRow _⟩
  | div | mod => exact ⟨_, rfl, division_followsRow _⟩
  | not | neg => exact ⟨_, rfl, unaryOp_followsRow _⟩
  | jmpt | jmpf => exact ⟨_, rfl, condJump_followsRow _⟩
  | jmp | print | pop => exact ⟨_, rfl, .needOne_bind (.completes (.inl rfl))⟩
  | const literal => exact execConst_followsRow literal
  | load =>
    exact ⟨_, rfl, .addressRow_bind rfl stackAddr_of_inRange stackAddr_of_outOfRange
      (.push_after_pops (by simp only [State.setSpReg_sp]; omega) rfl rfl)⟩
  | store offset =>
    exact ⟨_, rfl, .addressRow_bind rfl stackAddr_of_inRange stackAddr_of_outOfRange (.completes (.inl rfl))⟩
  | gload =>
    exact ⟨_, rfl, .addressRow_bind rfl globalAddr_of_inRange globalAddr_of_outOfRange
      (.push_after_pops (by simp only [State.setSpReg_sp]; omega) rfl rfl)⟩
  | gstore addr =>
    exact ⟨_, rfl, .addressRow_bind rfl globalAddr_of_inRange globalAddr_of_outOfRange (.completes (.inl rfl))⟩
  | halt => exact ⟨_, rfl, .completes (.inr rfl)⟩
  | call target argcount localcount => exact execCall_followsRow target argcount localcount
  | ret => exact execRet_followsRow

section Causes

/-- The causes of each fault: the instructions that can raise it once fetched, each with its condition on the state (R171 to
R174); UnknownOpcode has none, since it is the fetch's (R175). -/
def FaultCause (i : Instr) (s : State) : FaultKind → Prop
  | .stackOverflow =>
    (∃ c, i = .const c ∧ s.sp = (s.params.stackCap : Int) - 1) ∨
    (∃ target argcount localcount, i = .call target argcount localcount ∧
      (s.sp + 3 > (s.params.stackCap : Int) - 1 ∨ s.sp + 3 + localcount > (s.params.stackCap : Int) - 1)) ∨
    (i = .ret ∧ 0 ≤ s.sp ∧ (s.fp > (s.params.stackCap : Int) - 1 ∨
      2 ≤ s.fp ∧ s.fp - 3 - stackCell s (s.fp.toNat - 2) > (s.params.stackCap : Int) - 2))
  | .stackUnderflow =>
    i.opcode ∈ [.add, .sub, .mul, .div, .mod, .lt, .gt, .leq, .geq, .eq, .and, .or, .jmpt, .jmpf] ∧ s.sp < 1 ∨
    i.opcode ∈ [.not, .neg, .jmp, .load, .store, .gload, .gstore, .print, .pop] ∧ s.sp < 0 ∨
    (∃ target argcount localcount, i = .call target argcount localcount ∧
      s.sp + 3 ≤ (s.params.stackCap : Int) - 1 ∧ s.sp + 3 + localcount < -1) ∨
    i = .ret ∧ (s.sp < 0 ∨ s.fp ≤ (s.params.stackCap : Int) - 1 ∧
      (s.fp < 2 ∨ s.fp - 3 - stackCell s (s.fp.toNat - 2) < -1))
  | .outOfBoundsMemoryAccess =>
    0 ≤ s.sp ∧ ∃ e : Int,
      ((i = .load ∧ e = (if topCell s < 0 then s.fp + topCell s - 2 else s.fp + topCell s + 1) ∨
        ∃ offset, i = .store offset ∧ e = s.fp - offset + 1) ∧ (e < 0 ∨ e ≥ (s.params.stackCap : Int))) ∨
      ((i = .gload ∧ e = topCell s ∨ i = .gstore e) ∧ (e < 0 ∨ e ≥ (s.params.globalSize : Int)))
  | .arithmeticFault => (i = .div ∨ i = .mod) ∧ 1 ≤ s.sp ∧ topCell s = 0
  | .unknownOpcode => False

/-- The table of R176, which goes by instruction, read by fault. -/
theorem faultTable_eq_some {i : Instr} {s : State} {k : FaultKind} : faultTable i s = some k ↔ FaultCause i s k := by
  cases i with
  | const literal => cases k <;> simp [faultTable, FaultCause, Instr.opcode]
  | load | store offset | gload | gstore addr =>
    rw [faultTable, addressRow_eq_some]
    cases k <;> simp [FaultCause, Instr.opcode]
  | call target argcount localcount =>
    rw [faultTable, callRow_eq_some]
    cases k <;> simp [FaultCause, Instr.opcode]
  | _ =>
    -- every other row names its causes as `FaultCause` does, with no operand to match
    simp only [faultTable, needTwo_eq_some, needOne_eq_some, divisionRow_eq_some, retRow_eq_some, reduceCtorEq]
    cases k <;> simp only [FaultCause, Instr.opcode, List.mem_cons, List.not_mem_nil, reduceCtorEq, false_and, and_false,
      true_and, or_false, false_or, or_true, exists_false]

end Causes

section Raising

variable {i : Instr} {s t : State} {k : FaultKind}

/-- An instruction of a running unit raises exactly the fault of its row; above the stack a push may overflow as well. -/
theorem raises_iff_faultTable (hrun : s.run = .running)
    (hsp : k = .stackOverflow → s.sp ≤ (s.params.stackCap : Int) - 1) :
    Raises i s k ↔ faultTable i s = some k := by
  obtain ⟨r, hexec, hrow⟩ := exec_followsRow i s
  generalize faultTable i s = row at hrow
  simp only [Raises, hexec]
  cases hrow with
  | completes hstate =>
    rw [hrun] at hstate
    rcases hstate with h | h <;> simp [h]
  | raises j => simp
  | overfull hover =>
    have hk : ¬ FaultKind.stackOverflow = k := fun h => absurd (hsp h.symm) (Int.not_le.mpr hover)
    simp [hk]

/-- The step of a running unit raises the fault of its fetch, or a fault of the instruction it has fetched (R176, R177). -/
theorem stepRaises_iff (hrun : s.run = .running) (hc : covered s = true)
    (hsp : k = .stackOverflow → s.sp ≤ (s.params.stackCap : Int) - 1) :
    StepRaises s k ↔ fetchInstr s = .error k ∨ ∃ i, fetchInstr s = .ok i ∧ FaultCause i s k := by
  have hstep := step_of_running hrun hc
  cases hf : fetchInstr s with
  | error j => simp [StepRaises, hstep, hf]
  | ok i =>
    have hraises := (raises_iff_faultTable (i := i) hrun hsp).trans faultTable_eq_some
    simpa [StepRaises, Raises, hstep, hf] using hraises

/-- A fault that is not one of the fetch's two is raised by the fetched instruction (R102, R103, R176). -/
theorem stepRaises_iff_exists_instr (hrun : s.run = .running) (hc : covered s = true)
    (hsp : k = .stackOverflow → s.sp ≤ (s.params.stackCap : Int) - 1)
    (hk : k ≠ .outOfBoundsMemoryAccess ∧ k ≠ .unknownOpcode) :
    StepRaises s k ↔ ∃ i, fetchInstr s = .ok i ∧ FaultCause i s k := by
  have hfetch : fetchInstr s ≠ .error k := fun h => not_or.mpr hk (fetchInstr_error_kind h)
  rw [stepRaises_iff hrun hc hsp, or_iff_right hfetch]

theorem stepRaises_iff_of_next (h : step s = .next t) :
    StepRaises s k ↔ t.run = .faulted ∧ t.faultRec.kind = some k := by
  simp [StepRaises, h]

theorem covered_of_step_next (hrun : s.run = .running) (h : step s = .next t) : covered s = true := by
  rcases step_cases h with ⟨hstopped, -⟩ | ⟨-, hc, -⟩
  · exact absurd hrun hstopped
  · exact hc

/-- A step of a running unit that answers a state in `FAULTED` took a fault (R180). -/
theorem eq_takeFault_of_step_faulted (hrun : s.run = .running) (h : step s = .next t) (ht : t.run = .faulted) :
    ∃ k, t = takeFault k s := by
  rcases step_cases h with ⟨hstopped, -⟩ | ⟨-, -, ⟨k, -, rfl⟩ | ⟨i, -, hexec⟩⟩
  · exact absurd hrun hstopped
  · exact ⟨k, rfl⟩
  · obtain ⟨r, hr, hrow⟩ := exec_followsRow i s
    rw [hr] at hexec
    rcases finish_cases hexec with rfl | ⟨k, -, rfl⟩
    · simpa [hrun, ht] using hrow.run_of_ok
    · exact ⟨k, rfl⟩

end Raising

section Fetching

variable {s : State} {c : Int}

theorem fetchInstr_of_not_pcInRange (h : ¬ PcInRange s) : fetchInstr s = .error .outOfBoundsMemoryAccess := by
  unfold fetchInstr
  split
  · rfl
  · rw [List.drop_eq_nil_of_le (by simp only [PcInRange] at h; omega)]
    rfl

theorem fetchInstr_eq_unknownOpcode_iff_at (h0 : 0 ≤ s.pc) (hc : s.prog[s.pc.toNat]? = some c) :
    fetchInstr s = .error .unknownOpcode ↔ ∀ o, s.params.opc.code o ≠ c := by
  rw [fetchInstr_at h0 hc, ← opcodeOf?_eq_none]
  cases opcodeOf? s.params.opc c with
  | none => simp
  | some o => cases htake : takeOperands o (s.prog.drop (s.pc.toNat + 1)) <;> simp [htake]

/-- The fetch raises UnknownOpcode for a cell of the stream that is no `OPC(m)` (R102, R175). -/
theorem fetchInstr_eq_unknownOpcode : fetchInstr s = .error .unknownOpcode ↔
    ∃ c, 0 ≤ s.pc ∧ s.prog[s.pc.toNat]? = some c ∧ ∀ o, s.params.opc.code o ≠ c := by
  rcases pc_cases s with ⟨hpc, -⟩ | ⟨⟨h0, -⟩, c, hc, -⟩
  · rw [fetchInstr_of_not_pcInRange hpc]
    refine iff_of_false (by simp) fun ⟨c, h0, hc, _⟩ => hpc ⟨h0, ?_⟩
    obtain ⟨hlen, -⟩ := List.getElem?_eq_some_iff.mp hc
    omega
  · simp [fetchInstr_eq_unknownOpcode_iff_at h0 hc, h0, hc]

theorem inlineCount_pos {o : Opcode} (h : 0 < inlineCount o) : o = .const ∨ o = .store ∨ o = .gstore ∨ o = .call := by
  cases o <;> simp [inlineCount] at h ⊢

/-- At an opcode cell the fetch goes outside the stream for a missing inline operand (R83, R103). -/
theorem fetchInstr_eq_outOfBounds_iff_at (h0 : 0 ≤ s.pc) (hc : s.prog[s.pc.toNat]? = some c) :
    fetchInstr s = .error .outOfBoundsMemoryAccess ↔
      ∃ o, opcodeOf? s.params.opc c = some o ∧ s.prog.length ≤ s.pc.toNat + inlineCount o := by
  obtain ⟨hlen, -⟩ := List.getElem?_eq_some_iff.mp hc
  rw [fetchInstr_at h0 hc]
  cases opcodeOf? s.params.opc c with
  | none => simp
  | some o =>
    have hmissing : takeOperands o (s.prog.drop (s.pc.toNat + 1)) = none ↔
        s.prog.length ≤ s.pc.toNat + inlineCount o := by
      rw [takeOperands_eq_none, List.length_drop]
      omega
    simp only [Option.some.injEq, exists_eq_left', ← hmissing]
    cases takeOperands o (s.prog.drop (s.pc.toNat + 1)) <;> simp

/-- The two causes of R173 (a): no opcode cell at pc, or an inline operand behind the end of the stream. -/
theorem fetchInstr_eq_outOfBounds (hcov : covered s = true) : fetchInstr s = .error .outOfBoundsMemoryAccess ↔
    ¬ PcInRange s ∨ 0 ≤ s.pc ∧ ∃ o, (o = .const ∨ o = .store ∨ o = .gstore ∨ o = .call) ∧
      s.prog[s.pc.toNat]? = some (s.params.opc.code o) ∧ s.prog.length ≤ s.pc.toNat + inlineCount o := by
  rcases pc_cases s with ⟨hpc, -⟩ | ⟨hpc, c, hc, -⟩
  · exact iff_of_true (fetchInstr_of_not_pcInRange hpc) (.inl hpc)
  · have ⟨h0, hlen⟩ := hpc
    rw [fetchInstr_eq_outOfBounds_iff_at h0 hc]
    constructor
    · rintro ⟨o, ho, hshort⟩
      exact .inr ⟨h0, o, inlineCount_pos (by omega), by rw [hc, code_of_opcodeOf? ho], hshort⟩
    · rintro (hout | ⟨-, o, -, ho, hshort⟩)
      · exact absurd hpc hout
      · obtain rfl : c = s.params.opc.code o := Option.some.inj (hc.symm.trans ho)
        exact ⟨o, opcodeOf?_code (opc_injective hcov) o, hshort⟩

end Fetching

section Boundary

/-- A running unit of the default parameters with sp and fp as given, whose stack cell 0 holds `count`. -/
def boundaryUnit (sp fp count : Int) : State := { State.reset with sp := sp, fp := fp, stack := [(0, count)] }

theorem boundaryUnit_inv {sp fp count : Int} (hsp : -1 ≤ sp ∧ sp ≤ 99)
    (hcells : cellFits 32 fp = true ∧ cellFits 32 count = true) : (boundaryUnit sp fp count).Inv where
  covered := (by decide : covered State.reset = true)
  pcFits := (by decide : cellFits 32 0 = true)
  fpFits := hcells.1
  spLow := hsp.1
  spHigh := hsp.2
  stackWf := by simp [boundaryUnit, Memory.wf]
  stackWithin := by simp [boundaryUnit, Memory.within, State.reset, State.atReset, Config.params]
  stackFits := (Bool.and_true _).trans hcells.2
  globalsWf := rfl
  globalsWithin := rfl
  globalsFits := rfl
  outFits := rfl
  recordClear _ := rfl
  recordTaken h := by cases h

theorem boundaryUnit_raises {sp fp count : Int} {i : Instr} {k : FaultKind} (hhigh : sp ≤ 99)
    (h : faultTable i (boundaryUnit sp fp count) = some k) : Raises i (boundaryUnit sp fp count) k :=
  (raises_iff_faultTable rfl fun _ => hhigh).mpr h

end Boundary

/-- Settles O22: the fetch alone raises UnknownOpcode, and the record takes the cell at pc. -/
theorem unknownOpcodeFaultsWithTheCell : Obligations.UnknownOpcodeFaultsWithTheCell := by
  refine ⟨rfl, fun s c hrun hcov h0 hc hno => ?_, fun s t hrun hstep ht hkind => ?_⟩
  · have hfetch := (fetchInstr_eq_unknownOpcode_iff_at h0 hc).mpr hno
    have hstep : step s = .next (takeFault .unknownOpcode s) := by rw [step_of_running hrun hcov, hfetch]
    refine ⟨_, hstep, rfl, ?_⟩
    rw [takeFault_faultRec, recordFault_of_inRange (fetch_of_inRange h0 hc)]
    exact ⟨rfl, rfl, rfl⟩
  · have hraises := (stepRaises_iff_of_next hstep).mpr ⟨ht, hkind⟩
    have hcov := covered_of_step_next hrun hstep
    rcases (stepRaises_iff (k := .unknownOpcode) hrun hcov nofun).mp hraises with hfetch | ⟨i, -, hcause⟩
    · exact fetchInstr_eq_unknownOpcode.mp hfetch
    · exact hcause.elim

/-- Settles O56: the table names StackOverflow for CONST, CALL and RET alone, and each cause has a unit of the default
parameters (STACK_CAP 100) in which it alone holds. -/
theorem stackOverflowOnlyFromConstCallRet : Obligations.StackOverflowOnlyFromConstCallRet := by
  refine ⟨rfl, fun s v hfull => push_of_full (by omega), fun s e => setSp_of_high, fun s hi hrun => ?_, ?_, ?_, ?_, ?_,
    ?_, ?_⟩
  · rw [stepRaises_iff_exists_instr hrun hi.covered (fun _ => hi.spHigh) (by decide)]
    cases fetchInstr s <;> simp [FaultCause]
  · exact ⟨boundaryUnit 99 0 0, boundaryUnit_inv (by decide) (by decide), rfl, 0, boundaryUnit_raises (by decide) rfl⟩
  · exact ⟨boundaryUnit 97 0 0, boundaryUnit_inv (by decide) (by decide), rfl, by decide,
      boundaryUnit_raises (by decide) rfl⟩
  · exact ⟨boundaryUnit 96 0 0, boundaryUnit_inv (by decide) (by decide), rfl, by decide, 1,
      boundaryUnit_raises (by decide) rfl⟩
  · exact ⟨boundaryUnit 0 100 0, boundaryUnit_inv (by decide) (by decide), rfl, by decide,
      by decide, boundaryUnit_raises (by decide) rfl⟩
  · exact ⟨boundaryUnit 0 2 (-101), boundaryUnit_inv (by decide) (by decide), rfl, by decide,
      by decide, by decide, by decide, by decide, boundaryUnit_raises (by decide) rfl⟩
  · exact ⟨boundaryUnit 0 2 (-100), boundaryUnit_inv (by decide) (by decide), rfl, by decide,
      by decide, by decide, by decide, boundaryUnit_raises (by decide) rfl⟩

/-- DIV and MOD by a divisor that is not zero go on running with the record as it was, whatever the dividend (R124, R125). -/
theorem division_keeps_run_and_record (f : Int → Int → Int) {s : State} (hi : s.Inv) (hsp : 1 ≤ s.sp)
    (hdivisor : topCell s ≠ 0) :
    ∃ t, finish s (binaryOp (fun a b => if b = 0 then .error .arithmeticFault else .ok (f a b)) s) = .next t ∧
      t.run = s.run ∧ t.faultRec = s.faultRec := by
  obtain ⟨t, hnext, hcompleted, -⟩ :=
    binaryOp_result (f := fun a b => if b = 0 then .error .arithmeticFault else .ok (f a b)) hi hsp (if_neg hdivisor)
  exact ⟨t, hnext, hcompleted.run, hcompleted.faultRec⟩

/-- Settles O57: the fetch raises no ArithmeticFault, and the table names it for DIV and MOD alone. -/
theorem arithmeticFaultOnlyFromAZeroDivisor : Obligations.ArithmeticFaultOnlyFromAZeroDivisor := by
  refine ⟨rfl, fun s t hrun hcov hstep => ?_, fun s hi hsp _ htop => ?_⟩
  · rw [← stepRaises_iff_of_next hstep, stepRaises_iff_exists_instr (k := .arithmeticFault) hrun hcov nofun (by decide)]
    cases fetchInstr s <;> simp [FaultCause]
  · have hdivisor : topCell s ≠ 0 := by omega
    obtain ⟨t, hdiv, hrun, hrec⟩ := division_keeps_run_and_record (aluDiv s.params.width) hi hsp hdivisor
    obtain ⟨u, hmod, hrun', hrec'⟩ := division_keeps_run_and_record aluMod hi hsp hdivisor
    exact ⟨t, u, hdiv, hrun, hrec, hmod, hrun', hrec'⟩

/-- On the empty stack every opcode but CONST and HALT makes an instruction whose row names StackUnderflow: CALL with the
local count -4, the others with any operands. -/
theorem exists_underflow_on_empty_stack {o : Opcode} (hconst : o ≠ .const) (hhalt : o ≠ .halt) :
    ∃ i : Instr, i.opcode = o ∧ faultTable i (boundaryUnit (-1) 0 0) = some .stackUnderflow := by
  have hrow : ∃ i rest, takeOperands o [0, 0, -4] = some (i, rest) ∧
      faultTable i (boundaryUnit (-1) 0 0) = some .stackUnderflow := by
    cases o with
    | const => exact absurd rfl hconst
    | halt => exact absurd rfl hhalt
    | _ => exact ⟨_, _, rfl, rfl⟩
  obtain ⟨i, rest, htake, hrow⟩ := hrow
  exact ⟨i, (takeOperands_eq_some htake).1, hrow⟩

/-- Settles O58: the table names StackUnderflow for the listed causes alone, and under the invariant only a negative local
count takes CALL's sp below -1. -/
theorem stackUnderflowCauses : Obligations.StackUnderflowCauses := by
  refine ⟨rfl, fun s hempty => pop_of_neg (by omega), fun s e hlow => ?_, fun s hi hrun => ?_, fun o hconst hhalt => ?_⟩
  · exact setSp_of_low (by omega) hlow
  · have hlow := hi.spLow
    have hlocals (l : Int) : s.sp + 3 + l < -1 ∧ l < 0 ↔ s.sp + 3 + l < -1 := by omega
    simp only [hlocals]
    exact stepRaises_iff_exists_instr hrun hi.covered (fun _ => hi.spHigh) (by decide)
  · obtain ⟨i, hopcode, hrow⟩ := exists_underflow_on_empty_stack hconst hhalt
    exact ⟨i, boundaryUnit (-1) 0 0, hopcode, boundaryUnit_inv (by decide) (by decide), rfl,
      boundaryUnit_raises (by decide) hrow⟩

/-- Settles O59: the fetch's causes and the rows of R176 with an address; the record tells whether pc had an opcode cell. -/
theorem outOfBoundsMemoryAccessCauses : Obligations.OutOfBoundsMemoryAccessCauses := by
  refine ⟨rfl, fun s i hout => fetch_of_outOfRange (by omega), fun s e => stackAddr_of_outOfRange,
    fun s e => globalAddr_of_outOfRange, fun s hrun hcov => ?_, fun s => fetchInstr_eq_outOfBounds,
    fun s t hrun hstep ht _ => ?_⟩
  · rw [stepRaises_iff (k := .outOfBoundsMemoryAccess) hrun hcov nofun]
    cases fetchInstr s <;> simp [FaultCause]
  · obtain ⟨k, rfl⟩ := eq_takeFault_of_step_faulted hrun hstep ht
    have hrecord := (takeFault_faultedFrom k s).record
    refine ⟨fun hinvalid hpc => ?_, fun hpc => (hrecord.noOpcode hpc).1⟩
    exact absurd (hinvalid.symm.trans (hrecord.opcode hpc).1) (by decide)

end Sys2Proof.Machine
end

section
/-! SUPPORT. R80 to R88 and R100 to R103: encoding and decoding are inverse, what a fetched instruction says of the stream,
the fetch cell by cell and its port, and the proofs of O17 to O21 and O23 to O26. -/

namespace Sys2Proof

section Coding

variable {m : OpcMap} {cells rest : List Int} {i : Instr}

theorem encode_append (m : OpcMap) (i : Instr) (rest : List Int) :
    encode m i ++ rest = m.code i.opcode :: (i.operands ++ rest) := rfl

theorem operands_length (i : Instr) : i.operands.length = inlineCount i.opcode := by
  cases i <;> rfl

/-- A run of cells that decodes begins with an opcode cell of the answered instruction and its operands (R82, R102). -/
theorem decode_eq_ok (h : decode m cells = .ok (i, rest)) :
    ∃ c, cells = c :: (i.operands ++ rest) ∧ opcodeOf? m c = some i.opcode := by
  cases cells with
  | nil => cases h
  | cons c tail =>
    rw [decode_cons] at h
    cases ho : opcodeOf? m c with
    | none => simp [ho] at h
    | some o =>
      cases ht : takeOperands o tail with
      | none => simp [ho, ht] at h
      | some r =>
        obtain rfl : r = (i, rest) := by simpa [ho, ht] using h
        obtain ⟨rfl, rfl⟩ := takeOperands_eq_some ht
        exact ⟨c, rfl, ho⟩

/-- Every opcode cell is a cell of a width that holds the opcode map (R6). -/
theorem OpcMap.code_fits {w : Nat} (h : m.fits w = true) (o : Opcode) : cellFits w (m.code o) = true :=
  List.all_eq_true.mp h _ (List.mem_map_of_mem (Opcode.mem_all o))

end Coding

/-- Settles O24: an injective map finds the opcode of its own cell, and the opcode takes back its own operands. -/
theorem decodeOfEncodeIsTheInstruction : Obligations.DecodeOfEncodeIsTheInstruction := by
  refine ⟨fun m i rest hm => ?_, fun w m i hm hi => ?_⟩
  · rw [encode_append, decode_cons, opcodeOf?_code hm]
    simp only [takeOperands_operands]
  · rw [encode, List.all_cons, OpcMap.code_fits hm, Bool.true_and]
    exact hi

/-- Settles O25: the opcode cell is the map's value of the opcode it selects. -/
theorem encodeOfDecodeIsTheCells : Obligations.EncodeOfDecodeIsTheCells := by
  intro m cells rest i h
  obtain ⟨c, rfl, ho⟩ := decode_eq_ok h
  rw [encode_append, code_of_opcodeOf? ho]

/-- Settles O26: the worked encodings are closed runs of cells, on which the decoder computes. -/
theorem sampleCellsDecode : Obligations.SampleCellsDecode :=
  ⟨rfl, rfl, rfl, rfl, rfl, rfl⟩

namespace Machine

section Fetched

variable {s : State} {i : Instr}

theorem fetchInstr_of_decode {rest : List Int} (h0 : 0 ≤ s.pc)
    (h : decode s.params.opc (s.prog.drop s.pc.toNat) = .ok (i, rest)) : fetchInstr s = .ok i := by
  rw [fetchInstr, if_neg (Int.not_lt.mpr h0), h]

/-- A fetched instruction stands in the stream at pc, as its opcode cell and its operands (R100). -/
theorem fetchInstr_eq_ok (h : fetchInstr s = .ok i) :
    0 ≤ s.pc ∧ ∃ c rest, s.prog.drop s.pc.toNat = c :: (i.operands ++ rest) ∧
      opcodeOf? s.params.opc c = some i.opcode := by
  unfold fetchInstr at h
  split at h
  · cases h
  · next hpc =>
    split at h
    · next j rest hd =>
      cases h
      obtain ⟨c, hcells, ho⟩ := decode_eq_ok hd
      exact ⟨Int.not_lt.mp hpc, c, rest, hcells, ho⟩
    · cases h

/-- The last cell of a fetched instruction lies inside the stream (R58, R103). -/
theorem fetched_within (h : fetchInstr s = .ok i) :
    0 ≤ s.pc ∧ s.pc + 1 + (inlineCount i.opcode : Int) ≤ (s.prog.length : Int) := by
  obtain ⟨h0, c, rest, hcells, -⟩ := fetchInstr_eq_ok h
  have hlen := congrArg List.length hcells
  simp only [List.length_drop, List.length_cons, List.length_append, operands_length] at hlen
  omega

theorem pcInRange_of_fetched (h : fetchInstr s = .ok i) : PcInRange s := by
  obtain ⟨h0, hlen⟩ := fetched_within h
  exact ⟨h0, by omega⟩

/-- The operands of a fetched instruction are cells, since the stream consists of cells (R41, R83). -/
theorem fetched_wf (hc : covered s = true) (h : fetchInstr s = .ok i) : i.wf s.params.width = true := by
  obtain ⟨-, c, rest, hcells, -⟩ := fetchInstr_eq_ok h
  refine List.all_eq_true.mpr fun v hv => prog_fits hc (List.mem_of_mem_drop (i := s.pc.toNat) ?_)
  rw [hcells]
  exact List.mem_cons_of_mem _ (List.mem_append_left rest hv)

theorem step_of_fetched (hr : s.run = .running) (hc : covered s = true) (h : fetchInstr s = .ok i) :
    step s = exec i s := by
  rw [step_of_running hr hc, h]

theorem step_of_fetch_error {k : FaultKind} (hr : s.run = .running) (hc : covered s = true)
    (h : fetchInstr s = .error k) : step s = .next (takeFault k s) := by
  rw [step_of_running hr hc, h]

end Fetched

/-- Settles O17: the step dispatches what its decoder reads. -/
theorem stepRunsTheDecodedInstruction : Obligations.StepRunsTheDecodedInstruction := by
  intro s i rest hr hc h0 hd
  have hf := fetchInstr_of_decode h0 hd
  exact ⟨fetched_wf hc hf, step_of_fetched hr hc hf⟩

section CellByCell

variable {s : State}

/-- Fetching `n` cells one by one from a legal index gives the run of cells there, if the stream has them all (R103). -/
theorem mapM_fetch {p : Nat} (hp : p ≤ s.prog.length) (n : Nat) :
    (List.range n).mapM (fun (j : Nat) => fetch s ((p : Int) + (j : Int))) =
      if p + n ≤ s.prog.length then .ok ((s.prog.drop p).take n) else .error .outOfBoundsMemoryAccess := by
  induction n with
  | zero => rw [if_pos (by omega)]; rfl
  | succ n ih =>
    rw [List.range_succ, List.mapM_append, ih, List.mapM_cons, List.mapM_nil]
    rcases Nat.lt_or_ge (p + n) s.prog.length with h | h
    · have hcell : fetch s ((p : Int) + (n : Int)) = .ok s.prog[p + n] :=
        fetch_of_inRange (by omega) (List.getElem?_eq_getElem h)
      rw [if_pos h.le, if_pos (show p + (n + 1) ≤ s.prog.length from h), hcell, List.take_add_one,
        List.getElem?_drop, List.getElem?_eq_getElem h]
      rfl
    · have hout : fetch s ((p : Int) + (n : Int)) = .error .outOfBoundsMemoryAccess :=
        fetch_of_outOfRange (by omega)
      rw [if_neg (show ¬ p + (n + 1) ≤ s.prog.length by omega), hout]
      split <;> rfl

/-- The two ways to write the fetch agree: the decoder over the stream, and cell by cell (R100, R103). -/
theorem fetchCellByCell_eq (s : State) :
    fetchCellByCell s = (fetchInstr s).map (fun i => (i.opcode, i.operands)) := by
  rcases pc_cases s with ⟨hpc, hf⟩ | ⟨⟨h0, hlen⟩, c, hc, hf⟩
  · rw [fetchCellByCell, hf, fetchInstr_of_not_pcInRange hpc]
    rfl
  · rw [fetchCellByCell, hf, ok_bind, fetchInstr_at h0 hc]
    cases opcodeOf? s.params.opc c with
    | none => rfl
    | some o =>
      have hnext : s.pc + 1 = ((s.pc.toNat + 1 : Nat) : Int) := by omega
      have himms := mapM_fetch (s := s) (p := s.pc.toNat + 1) (by omega) (inlineCount o)
      simp only [hnext, himms]
      cases ht : takeOperands o (s.prog.drop (s.pc.toNat + 1)) with
      | none =>
        rw [takeOperands_eq_none, List.length_drop] at ht
        rw [if_neg (by omega)]
        rfl
      | some r =>
        obtain ⟨i, rest⟩ := r
        obtain ⟨rfl, hcells⟩ := takeOperands_eq_some ht
        have hcount := congrArg List.length hcells
        rw [List.length_drop, List.length_append, operands_length] at hcount
        rw [if_pos (by omega), hcells, ← operands_length, List.take_left]
        rfl

end CellByCell

/-- Settles O18: both parts read the one equation between the two fetches. -/
theorem fetchReadsCellByCell : Obligations.FetchReadsCellByCell := by
  refine fun s => ⟨fun i h => ?_, fun k h => ?_⟩ <;> rw [fetchCellByCell_eq, h] <;> rfl

/-- Settles O19: the fetch reads pc, the stream and the opcode map, and nothing else. -/
theorem dispatchDependsOnlyOnTheStream : Obligations.DispatchDependsOnlyOnTheStream := by
  intro s t hpc hprog hparams
  simp only [fetchInstr, hpc, hprog, hparams]

/-- Settles O20: outside the stream the opcode cell's own fetch faults, so the record holds no opcode. -/
theorem opcodeFetchOutsideTheStreamFaults : Obligations.OpcodeFetchOutsideTheStreamFaults := by
  intro s hr hc hpc
  have hfault := takeFault_faultedFrom .outOfBoundsMemoryAccess s
  obtain ⟨hvalid, hopcode⟩ := hfault.record.noOpcode hpc
  exact ⟨_, step_of_fetch_error hr hc (fetchInstr_of_not_pcInRange hpc), hfault, hvalid, hopcode, hfault.record.pc⟩

/-- Settles O23: the operand's fetch faults before any pop or push, and the opcode cell has been read by then. -/
theorem missingOperandFaultsBeforeTheStack : Obligations.MissingOperandFaultsBeforeTheStack := by
  intro o s h
  refine ⟨_, step_of_fetch_error h.running h.covered (fetchInstr_of_operandCellMissing h),
    takeFault_faultedFrom .outOfBoundsMemoryAccess s, ?_⟩
  rw [takeFault_faultRec, recordFault_of_inRange (fetch_of_inRange h.pcLow h.opcode)]
  exact ⟨rfl, rfl⟩

section StreamPort

variable {s : State} {c : Int} {o : Opcode}

theorem pmAddrs_of_stopped (h : s.run ≠ .running) : pmAddrs s = [] := by
  cases hr : s.run <;> simp_all [pmAddrs]

theorem pmAddrs_of_not_pcInRange (h : ¬ PcInRange s) : pmAddrs s = [] := by
  obtain ⟨-, hf⟩ | ⟨hpc, -⟩ := pc_cases s
  · cases hr : s.run <;> simp [pmAddrs, hf, hr]
  · exact absurd hpc h

theorem pmAddrs_of_unknown (hr : s.run = .running) (hf : fetch s s.pc = .ok c)
    (ho : opcodeOf? s.params.opc c = none) : pmAddrs s = [s.pc] := by
  simp only [pmAddrs, hr, hf, ho]

/-- At an opcode cell the port is presented the cells of the instruction that the stream has (R41, R103). -/
theorem pmAddrs_of_opcode (hr : s.run = .running) (hf : fetch s s.pc = .ok c)
    (ho : opcodeOf? s.params.opc c = some o) :
    pmAddrs s = ((List.range (1 + inlineCount o)).map (fun (j : Nat) => s.pc + (j : Int))).takeWhile
      (fun i => decide (i < (s.prog.length : Int))) := by
  simp only [pmAddrs, hr, hf, ho]

/-- Every presented index is one of the stream (R41). -/
theorem pmAddrs_within {i : Int} (h : i ∈ pmAddrs s) : 0 ≤ i ∧ i < (s.prog.length : Int) := by
  by_cases hr : s.run = .running
  · rcases pc_cases s with ⟨hpc, -⟩ | ⟨hpc, c, -, hf⟩
    · simp [pmAddrs_of_not_pcInRange hpc] at h
    · have ⟨h0, _⟩ := hpc
      cases ho : opcodeOf? s.params.opc c with
      | none =>
        obtain rfl : i = s.pc := by simpa [pmAddrs_of_unknown hr hf ho] using h
        exact hpc
      | some o =>
        rw [pmAddrs_of_opcode hr hf ho] at h
        have hlow : 0 ≤ i := by
          obtain ⟨j, -, rfl⟩ := List.mem_map.mp ((List.takeWhile_sublist _).subset h)
          omega
        have hhigh := List.mem_takeWhile_imp h
        exact ⟨hlow, of_decide_eq_true hhigh⟩
  · simp [pmAddrs_of_stopped hr] at h

/-- Of a fetched instruction every cell is presented, since the stream has them all (R41). -/
theorem pmAddrs_of_fetched {i : Instr} (hr : s.run = .running) (h : fetchInstr s = .ok i) :
    pmAddrs s = (List.range (1 + inlineCount i.opcode)).map (fun (j : Nat) => s.pc + (j : Int)) := by
  obtain ⟨h0, c, rest, hcells, ho⟩ := fetchInstr_eq_ok h
  obtain ⟨-, hlen⟩ := fetched_within h
  have hc : s.prog[s.pc.toNat]? = some c := by
    rw [← Nat.add_zero s.pc.toNat, ← List.getElem?_drop, hcells, List.getElem?_cons_zero]
  rw [pmAddrs_of_opcode hr (fetch_of_inRange h0 hc) ho, List.takeWhile_eq_self_iff]
  intro i hi
  obtain ⟨j, hj, rfl⟩ := List.mem_map.mp hi
  rw [List.mem_range] at hj
  exact decide_eq_true (by omega)

end StreamPort

/-- Settles O21: the port is cut where the stream ends, which is behind the last cell of a fetched instruction. -/
theorem fetchPresentsOnlyStreamIndices : Obligations.FetchPresentsOnlyStreamIndices := by
  refine fun s => ⟨fun i => pmAddrs_within, pmAddrs_of_stopped, fun i hr h => ?_⟩
  rw [pmAddrs_of_fetched hr h, encode, List.length_cons, operands_length, Nat.add_comm]

end Machine

end Sys2Proof
end

section
/-! SUPPORT. R8, R120 to R125, R131, R132 and R134 to R136: `wrap` as arithmetic modulo `2^W`, the truncating quotient and
remainder as cells, and the proofs of O32 to O36 and O39. -/

namespace Sys2Proof.Machine

section Words

variable {w : Nat}

theorem wrap_congruent (w : Nat) (v : Int) : ((2 ^ w : Nat) : Int) ∣ wrap w v - v := by
  refine ⟨-((v + ((2 ^ (w - 1) : Nat) : Int)) / ((2 ^ w : Nat) : Int)), ?_⟩
  rw [wrap, Int.emod_def, Int.mul_neg]
  omega

/-- The cells are the values of the `W`-bit two's-complement words (R7). -/
theorem toInt_fits (a : BitVec w) : cellFits w a.toInt = true := by
  rw [cellFits_iff, Nat.cast_pow]
  exact ⟨a.le_toInt, a.toInt_lt⟩

end Words

/-- Settles O36: `wrap` is the balanced remainder modulo `2^W`, by which Lean says how words are added and multiplied. -/
theorem wrapIsRingArithmetic : Obligations.WrapIsRingArithmetic := by
  refine fun w hw => ⟨fun v => ⟨wrap_fits hw v, wrap_of_fits hw, wrap_congruent w v⟩, fun a b => ⟨toInt_fits a, ?_⟩⟩
  simp only [aluAdd, aluSub, aluMul, aluNeg, wrap_eq_bmod hw, Int.zero_sub]
  exact ⟨(BitVec.toInt_add a b).symm, BitVec.toInt_sub.symm, (BitVec.toInt_mul a b).symm, BitVec.toInt_neg.symm⟩

section Division

variable {w : Nat} {a b : Int}

/-- The truncating quotient of two cells is a cell, except that of `INT_MIN` by -1 (R136). -/
theorem tdiv_fits (ha : cellFits w a = true) (hb : b ≠ 0) (hex : ¬ (a = intMin w ∧ b = -1)) :
    cellFits w (Int.tdiv a b) = true := by
  rw [intMin] at hex
  rw [cellFits_iff] at ha ⊢
  generalize ((2 ^ (w - 1) : Nat) : Int) = m at *
  have hle : (Int.tdiv a b).natAbs ≤ a.natAbs := by
    rw [Int.natAbs_tdiv]
    exact Nat.div_le_self _ _
  by_cases hone : b.natAbs = 1
  · rcases Int.natAbs_eq_iff.mp hone with rfl | rfl
    · rwa [Nat.cast_one, Int.tdiv_one]
    · rw [Nat.cast_one, Int.tdiv_neg, Int.tdiv_one]
      simp only [Nat.cast_one, and_true] at hex
      omega
  · -- a divisor of size two or more makes the quotient smaller than the dividend
    rcases Nat.eq_zero_or_pos a.natAbs with hzero | hpos
    · omega
    · have hlt : (Int.tdiv a b).natAbs < a.natAbs := by
        rw [Int.natAbs_tdiv]
        exact Nat.div_lt_self hpos (by omega)
      omega

theorem aluDiv_eq_tdiv (hw : 1 ≤ w) (ha : cellFits w a = true) (hb : b ≠ 0)
    (hex : ¬ (a = intMin w ∧ b = -1)) : aluDiv w a b = Int.tdiv a b := by
  rw [aluDiv, tdiv_eq, wrap_of_fits hw (tdiv_fits ha hb hex)]

theorem aluMod_eq_tmod (a b : Int) : aluMod a b = Int.tmod a b := trem_eq a b

theorem aluMod_natAbs_lt (a : Int) (hb : b ≠ 0) : (aluMod a b).natAbs < b.natAbs := by
  rw [aluMod_eq_tmod, Int.natAbs_tmod]
  exact Nat.mod_lt _ (Int.natAbs_pos.mpr hb)

/-- A remainder that is not 0 has the dividend's sign (D3). -/
theorem aluMod_sign (a b : Int) : aluMod a b = 0 ∨ (aluMod a b).sign = a.sign := by
  rw [aluMod_eq_tmod]
  by_cases hdvd : b ∣ a
  · exact .inl (Int.tmod_eq_zero_of_dvd hdvd)
  · exact .inr ((Int.sign_tmod a b).trans (if_neg hdvd))

/-- `INT_MIN / -1` is `2^(W-1)`, which wraps to `INT_MIN` (D3). -/
theorem aluDiv_intMin_neg_one (hw : 1 ≤ w) : aluDiv w (intMin w) (-1) = intMin w := by
  rw [aluDiv, tdiv_eq, Int.tdiv_neg, Int.tdiv_one, intMin, Int.neg_neg, wrap, two_pow_eq_double hw]
  generalize 2 ^ (w - 1) = m
  rw [show (m : Int) + m = ((2 * m : Nat) : Int) by omega, Int.emod_self, Int.zero_sub]

end Division

/-- Settles O35: away from `INT_MIN / -1` the quotient needs no wrap, so Lean's laws of truncating division apply. -/
theorem quotientAndRemainderFitTogether : Obligations.QuotientAndRemainderFitTogether := by
  refine ⟨fun w a b hw ha _ hb => ⟨wrap_fits (by omega) _, aluMod_fits ha b, fun hex => ?_⟩, fun w hw => ⟨?_, ?_⟩⟩
  · refine ⟨?_, aluMod_natAbs_lt a hb, aluMod_sign a b⟩
    rw [aluDiv_eq_tdiv (by omega) ha hb hex, aluMod_eq_tmod]
    exact (Int.mul_tdiv_add_tmod a b).symm
  · exact aluDiv_intMin_neg_one (by omega)
  · rw [aluMod_eq_tmod, Int.tmod_neg, Int.tmod_one]

section Results

variable {s : State}

theorem width_pos (hc : covered s = true) : 1 ≤ s.params.width :=
  Nat.le_trans (by decide) (width_bound hc)

/-- What an instruction that pushes `wrap` of an exact result leaves (R121 to R123, R135). -/
theorem wrapped_result (f : Int → Int → Int) (hi : s.Inv) (hsp : 1 ≤ s.sp) :
    ∃ t, finish s (binaryOp (fun a b => .ok (wrap s.params.width (f a b))) s) = .next t ∧
      BinaryResult s t (Int.bmod (f (secondCell s) (topCell s)) (2 ^ s.params.width)) :=
  binaryOp_result hi hsp (congrArg Except.ok (wrap_eq_bmod (width_pos hi.covered) _))

/-- DIV and MOD with a divisor that is not zero push what `f` gives (R124, R125). -/
theorem division_result (f : Int → Int → Int) (hi : s.Inv) (hsp : 1 ≤ s.sp) (hdivisor : topCell s ≠ 0) :
    ∃ t, finish s (binaryOp (fun a b => if b = 0 then .error .arithmeticFault else .ok (f a b)) s) = .next t ∧
      BinaryResult s t (f (secondCell s) (topCell s)) :=
  binaryOp_result hi hsp (if_neg hdivisor)

/-- DIV and MOD by zero fault after both pops, of which nothing remains (R124, R125, R180). -/
theorem division_faults (f : Int → Int → Int) (hsp : 1 ≤ s.sp) (hdivisor : topCell s = 0) :
    ∃ t, finish s (binaryOp (fun a b => if b = 0 then .error .arithmeticFault else .ok (f a b)) s) = .next t ∧
      FaultedFrom .arithmeticFault s t := by
  refine ⟨_, ?_, takeFault_faultedFrom .arithmeticFault s⟩
  rw [binaryOp_of_error hsp (if_pos hdivisor), finish_error]

end Results

/-- Settles O32: each of the three pushes `wrap` of the exact result. -/
theorem addSubMulPushTheWrappedResult : Obligations.AddSubMulPushTheWrappedResult :=
  fun _ hi hsp => ⟨wrapped_result (· + ·) hi hsp, wrapped_result (· - ·) hi hsp, wrapped_result (· * ·) hi hsp⟩

/-- Settles O33: NEG pushes `wrap` of zero minus the operand. -/
theorem negPushesTheWrappedNegation : Obligations.NegPushesTheWrappedNegation := by
  intro s hi hsp
  rw [← Int.zero_sub, ← wrap_eq_bmod (width_pos hi.covered)]
  exact unaryOp_result (aluNeg s.params.width) hi hsp

/-- Settles O34: the divisor's test decides, and the model's quotient and remainder are Lean's. -/
theorem divAndModTruncateOrFault : Obligations.DivAndModTruncateOrFault := by
  refine fun s hi hsp => ⟨fun hdivisor => ?_, fun hdivisor => ?_⟩
  · rw [← wrap_eq_bmod (width_pos hi.covered), ← tdiv_eq, ← trem_eq]
    exact ⟨division_result (aluDiv s.params.width) hi hsp hdivisor, division_result aluMod hi hsp hdivisor⟩
  · exact ⟨division_faults (aluDiv s.params.width) hsp hdivisor, division_faults aluMod hsp hdivisor⟩

theorem logicAnd_eq (a b : Int) : logicAnd a b = if a = 1 ∧ b = 1 then 1 else 0 := by
  simp only [logicAnd, truthCell, cellIsTrue, Bool.and_eq_true, decide_eq_true_eq]

theorem logicOr_eq (a b : Int) : logicOr a b = if a = 1 ∨ b = 1 then 1 else 0 := by
  simp only [logicOr, truthCell, cellIsTrue, Bool.or_eq_true, decide_eq_true_eq]

/-- Settles O39: both are the two-operand form, with the truth cell of a test against exactly 1. -/
theorem andOrCountOnlyExactlyOne : Obligations.AndOrCountOnlyExactlyOne := by
  intro s hi hsp
  rw [← logicAnd_eq, ← logicOr_eq]
  exact ⟨binaryOp_result hi hsp rfl, binaryOp_result hi hsp rfl⟩

end Sys2Proof.Machine
end

section
/-! SUPPORT. R11, R110 and R120 to R161: the state in which each instruction completes, in one closed form, when an instruction
reaches it, and what it keeps. -/

namespace Sys2Proof.Machine

section ClosedForm

/-- sp moved to `n` and the cell there set to `v`: what a push leaves, after any pops before it (R104, R105). -/
def State.pushAt (s : State) (n v : Int) : State := stackWrite (s.setSpReg n) n.toNat v

/-- The three cells of a frame above the top, fp at the last of them (R154, R155). -/
def State.pushFrame (s : State) (argcount : Int) : State :=
  (((s.pushAt (s.sp + 1) argcount).pushAt (s.sp + 2) (s.pc + 3)).pushAt (s.sp + 3) s.fp).setFp (s.sp + 3)

/-- The state in which an instruction that takes no fault at `s` leaves the unit, by the rules of R121 to R161. -/
def completion (i : Instr) (s : State) : State :=
  let w := s.params.width
  let a := secondCell s
  let b := topCell s
  match i with
  | .add => (s.pushAt (s.sp - 1) (aluAdd w a b)).setPc (s.pc + 1)
  | .sub => (s.pushAt (s.sp - 1) (aluSub w a b)).setPc (s.pc + 1)
  | .mul => (s.pushAt (s.sp - 1) (aluMul w a b)).setPc (s.pc + 1)
  | .div => (s.pushAt (s.sp - 1) (aluDiv w a b)).setPc (s.pc + 1)
  | .mod => (s.pushAt (s.sp - 1) (aluMod a b)).setPc (s.pc + 1)
  | .lt => (s.pushAt (s.sp - 1) (cmpLt a b)).setPc (s.pc + 1)
  | .gt => (s.pushAt (s.sp - 1) (cmpGt a b)).setPc (s.pc + 1)
  | .leq => (s.pushAt (s.sp - 1) (cmpLeq a b)).setPc (s.pc + 1)
  | .geq => (s.pushAt (s.sp - 1) (cmpGeq a b)).setPc (s.pc + 1)
  | .eq => (s.pushAt (s.sp - 1) (cmpEq a b)).setPc (s.pc + 1)
  | .and => (s.pushAt (s.sp - 1) (logicAnd a b)).setPc (s.pc + 1)
  | .or => (s.pushAt (s.sp - 1) (logicOr a b)).setPc (s.pc + 1)
  | .not => (s.pushAt s.sp (logicNot b)).setPc (s.pc + 1)
  | .neg => (s.pushAt s.sp (aluNeg w b)).setPc (s.pc + 1)
  | .jmp => (s.setSpReg (s.sp - 1)).setPc b
  | .jmpt => (s.setSpReg (s.sp - 2)).setPc (if cellIsTrue a then b else s.pc + 1)
  | .jmpf => (s.setSpReg (s.sp - 2)).setPc (if cellIsFalse a then b else s.pc + 1)
  | .const literal => (s.pushAt (s.sp + 1) literal).setPc (s.pc + 2)
  | .load => (s.pushAt s.sp (stackCell s (loadIndex s.fp b).toNat)).setPc (s.pc + 1)
  | .store offset => (stackWrite (s.setSpReg (s.sp - 1)) (storeIndex s.fp offset).toNat b).setPc (s.pc + 2)
  | .gload => (s.pushAt s.sp (globalCell s b.toNat)).setPc (s.pc + 1)
  | .gstore addr => (globalWrite (s.setSpReg (s.sp - 1)) addr.toNat b).setPc (s.pc + 2)
  | .print => ((s.setSpReg (s.sp - 1)).setOut (s.out ++ [b])).setPc (s.pc + 1)
  | .pop => (s.setSpReg (s.sp - 1)).setPc (s.pc + 1)
  | .halt => (s.setRun .halted).setPc (s.pc + 1)
  | .call target argcount localcount =>
    ((s.pushFrame argcount).setSpReg (s.sp + 3 + localcount)).setPc target
  | .ret =>
    ((s.setFp (stackCell s s.fp.toNat)).pushAt (s.fp - 2 - stackCell s (s.fp.toNat - 2)) b).setPc
      (wrap w (stackCell s (s.fp.toNat - 1) + 1))

/-- The answer of an instruction that writes the stack cells `cells` and else completes in `t`: a push faults where a cell
lies above the stack (R105), which happens in no state whose sp is in range. -/
def answer (s : State) (cells : List Int) (t : State) : Host.Outcome State Fault Refusal :=
  if cells.all (fun c => decide (c ≤ (s.params.stackCap : Int) - 1)) then .next t else .next (takeFault .stackOverflow s)

end ClosedForm

section Answers

variable {s t : State} {v : Int}

theorem answer_nil (s t : State) : answer s [] t = .next t := rfl

theorem answer_of_inStack {cells : List Int} (h : ∀ c ∈ cells, c ≤ (s.params.stackCap : Int) - 1) :
    answer s cells t = .next t :=
  if_pos (List.all_eq_true.mpr fun c hc => decide_eq_true (h c hc))

theorem answer_singleton_of_le {n : Int} (h : n ≤ (s.params.stackCap : Int) - 1) : answer s [n] t = .next t :=
  answer_of_inStack (List.forall_mem_singleton.mpr h)

theorem answer_singleton_of_gt {n : Int} (h : (s.params.stackCap : Int) - 1 < n) :
    answer s [n] t = .next (takeFault .stackOverflow s) :=
  if_neg (by simpa using h)

/-- An answer is one of two states, whatever the cells are. -/
theorem answer_cases (s : State) (cells : List Int) (t : State) :
    answer s cells t = .next t ∨ answer s cells t = .next (takeFault .stackOverflow s) :=
  (ite_eq_or_eq _ _ _)

theorem push_eq_pushAt {n : Int} (hn : s.sp + 1 = n) (h : n ≤ (s.params.stackCap : Int) - 1) :
    push v s = .ok (s.pushAt n v) := by
  subst hn
  exact push_of_room h

/-- An instruction that ends with a push, its pops behind it (R105). -/
theorem finish_push (s : State) (n v j : Int) :
    finish s (push v (s.setSpReg n) >>= fun u => .ok (u.setPc (u.pc + j))) =
      answer s [n + 1] ((s.pushAt (n + 1) v).setPc (s.pc + j)) := by
  rcases push_cases v (s.setSpReg n) with ⟨h, hpush⟩ | ⟨h, hpush⟩
  · rw [hpush, error_bind, finish_error]
    exact (answer_singleton_of_gt (s := s) (n := n + 1) h).symm
  · rw [hpush, ok_bind, finish_ok]
    exact (answer_singleton_of_le (s := s) (n := n + 1) h).symm

theorem finish_push_after_pop (s : State) (v : Int) :
    finish s (push v (s.setSpReg (s.sp - 1)) >>= fun u => .ok (u.setPc (u.pc + 1))) =
      answer s [s.sp] ((s.pushAt s.sp v).setPc (s.pc + 1)) := by
  rw [finish_push, Int.sub_add_cancel]

theorem binaryOp_answer {f : Int → Int → Except FaultKind Int} (h : 1 ≤ s.sp)
    (hf : f (secondCell s) (topCell s) = .ok v) :
    finish s (binaryOp f s) = answer s [s.sp - 1] ((s.pushAt (s.sp - 1) v).setPc (s.pc + 1)) := by
  have hpush := finish_push s (s.sp - 1 - 1) v 1
  rw [Int.sub_add_cancel] at hpush
  obtain ⟨hfirst, hsecond⟩ := pop_pop h
  simp only [binaryOp, hfirst, hsecond, ok_bind, hf, advance_zero, hpush]

theorem unaryOp_answer (f : Int → Int) (h : 0 ≤ s.sp) :
    finish s (unaryOp f s) = answer s [s.sp] ((s.pushAt s.sp (f (topCell s))).setPc (s.pc + 1)) := by
  simp only [unaryOp, pop_of_nonneg h, ok_bind, advance_zero, finish_push_after_pop]

theorem condJump_answer (taken : Int → Bool) (h : 1 ≤ s.sp) :
    finish s (condJump taken s) =
      .next ((s.setSpReg (s.sp - 2)).setPc (if taken (secondCell s) then topCell s else s.pc + 1)) := by
  rw [condJump_of_ok taken h, show s.sp - 1 - 1 = s.sp - 2 by omega, finish_ok]

theorem execConst_answer (s : State) (literal : Int) :
    execConst literal s = answer s [s.sp + 1] ((s.pushAt (s.sp + 1) literal).setPc (s.pc + 2)) := by
  simp only [execConst, advance_one]
  exact finish_push s s.sp literal 2

theorem execLoad_answer (h0 : 0 ≤ s.sp) (he : 0 ≤ loadIndex s.fp (topCell s))
    (hcap : loadIndex s.fp (topCell s) < (s.params.stackCap : Int)) :
    execLoad s =
      answer s [s.sp] ((s.pushAt s.sp (stackCell s (loadIndex s.fp (topCell s)).toNat)).setPc (s.pc + 1)) := by
  have haddr : stackAddr (loadIndex s.fp (topCell s)) (s.setSpReg (s.sp - 1)) =
      .ok (loadIndex s.fp (topCell s)).toNat := stackAddr_of_inRange he hcap
  simp only [execLoad, pop_of_nonneg h0, ok_bind, State.setSpReg_fp, haddr, stackCell_setSpReg, advance_zero,
    finish_push_after_pop]

theorem execGload_answer (h0 : 0 ≤ s.sp) (ha : 0 ≤ topCell s) (hb : topCell s < (s.params.globalSize : Int)) :
    execGload s = answer s [s.sp] ((s.pushAt s.sp (globalCell s (topCell s).toNat)).setPc (s.pc + 1)) := by
  have haddr : globalAddr (topCell s) (s.setSpReg (s.sp - 1)) = .ok (topCell s).toNat :=
    globalAddr_of_inRange ha hb
  simp only [execGload, pop_of_nonneg h0, ok_bind, haddr, globalCell_setSpReg, advance_zero, finish_push_after_pop]

/-- A push right after a push (R105). -/
theorem push_pushAt {n m u : Int} (hm : n + 1 = m) (h : m ≤ (s.params.stackCap : Int) - 1) :
    push v (s.pushAt n u) = .ok ((s.pushAt n u).pushAt m v) :=
  push_eq_pushAt hm h

/-- CALL with room for the frame and for the locals (R155). -/
theorem execCall_of_ok {target argcount localcount : Int} (hroom : s.sp + 3 ≤ (s.params.stackCap : Int) - 1)
    (hlow : -1 ≤ s.sp + 3 + localcount) (hhigh : s.sp + 3 + localcount ≤ (s.params.stackCap : Int) - 1) :
    execCall target argcount localcount s = .next (completion (.call target argcount localcount) s) := by
  have hcap2 : s.sp + 2 ≤ (s.params.stackCap : Int) - 1 := by omega
  have hpush1 : push argcount s = .ok (s.pushAt (s.sp + 1) argcount) := push_eq_pushAt rfl (by omega)
  have hpush2 : push (s.pc + 3) (s.pushAt (s.sp + 1) argcount) = .ok _ := push_pushAt (m := s.sp + 2) (by omega) hcap2
  have hpush3 : push s.fp ((s.pushAt (s.sp + 1) argcount).pushAt (s.sp + 2) (s.pc + 3)) = .ok _ :=
    push_pushAt (m := s.sp + 3) (by omega) hroom
  have hlocals : setSp (s.sp + 3 + localcount) (s.pushFrame argcount) = .ok _ := setSp_of_inRange hlow hhigh
  simp only [execCall, hpush1, hpush2, hpush3, ok_bind]
  exact congrArg (fun x => finish s (x >>= fun u => .ok (u.setPc target))) hlocals

/-- RET with its frame inside the stack and room for the return value (R156). -/
theorem execRet_of_ok (h0 : 0 ≤ s.sp) (hfp : 2 ≤ s.fp) (hcap : s.fp ≤ (s.params.stackCap : Int) - 1)
    (hlow : -1 ≤ s.fp - 3 - stackCell s (s.fp.toNat - 2))
    (hhigh : s.fp - 3 - stackCell s (s.fp.toNat - 2) ≤ (s.params.stackCap : Int) - 2) :
    execRet s = .next (completion .ret s) := by
  have hpop {u : State} {n : Int} (hn : 0 ≤ n) : pop (u.setSpReg n) = .ok (stackCell u n.toNat, u.setSpReg (n - 1)) :=
    pop_of_nonneg hn
  have hra : (s.fp - 1).toNat = s.fp.toNat - 1 := by omega
  have hcount : (s.fp - 2).toNat = s.fp.toNat - 2 := by omega
  generalize hA : stackCell s (s.fp.toNat - 2) = A at *
  -- from here on every state is `u`, the caller's fp restored, with another sp
  let u := s.setFp (stackCell s s.fp.toNat)
  have hdiscard : setSp s.fp (s.setSpReg (s.sp - 1)) = .ok (s.setSpReg s.fp) := setSp_of_inRange (by omega) hcap
  have hpop1 : pop (s.setSpReg s.fp) = .ok (stackCell s s.fp.toNat, s.setSpReg (s.fp - 1)) := hpop (by omega)
  have hpop2 : pop ((s.setSpReg (s.fp - 1)).setFp (stackCell s s.fp.toNat)) =
      .ok (stackCell s (s.fp.toNat - 1), u.setSpReg (s.fp - 2)) := by
    rw [← hra, show s.fp - 2 = s.fp - 1 - 1 by omega]
    exact hpop (u := u) (n := s.fp - 1) (by omega)
  have hpop3 : pop (u.setSpReg (s.fp - 2)) = .ok (A, u.setSpReg (s.fp - 3)) := by
    rw [← hA, ← hcount, show s.fp - 3 = s.fp - 2 - 1 by omega]
    exact hpop (by omega)
  have hdrop : setSp (s.fp - 3 - A) (u.setSpReg (s.fp - 3)) = .ok (u.setSpReg (s.fp - 3 - A)) :=
    setSp_of_inRange hlow (show _ ≤ (s.params.stackCap : Int) - 1 by omega)
  have hpush : push (topCell s) (u.setSpReg (s.fp - 3 - A)) = .ok (u.pushAt (s.fp - 2 - A) (topCell s)) :=
    push_eq_pushAt (show s.fp - 3 - A + 1 = _ by omega) (show _ ≤ (s.params.stackCap : Int) - 1 by omega)
  simp only [execRet, pop_of_nonneg h0, ok_bind, State.setSpReg_fp, State.setSpReg_sp, hdiscard, hpop1, hpop2, hpop3,
    hdrop, hpush, finish_ok, completion, hA, u]

end Answers

section Execution

variable {i : Instr} {s t : State} {k : FaultKind}

theorem needTwo_eq_none : needTwo s = none ↔ 1 ≤ s.sp := by
  grind [needTwo]

theorem needOne_eq_none : needOne s = none ↔ 0 ≤ s.sp := by
  grind [needOne]

theorem constRow_eq_none {literal : Int} :
    faultTable (.const literal) s = none ↔ s.sp ≠ (s.params.stackCap : Int) - 1 := by
  simp [faultTable]

theorem divisionRow_eq_none : divisionRow s = none ↔ 1 ≤ s.sp ∧ topCell s ≠ 0 := by
  grind [divisionRow]

theorem addressRow_eq_none {e : Int} {size : Nat} :
    addressRow s e size = none ↔ 0 ≤ s.sp ∧ 0 ≤ e ∧ e < (size : Int) := by
  grind [addressRow]

theorem exec_of_row_some (h : faultTable i s = some k) : exec i s = .next (takeFault k s) := by
  obtain ⟨r, hexec, hrow⟩ := exec_followsRow i s
  rw [h] at hrow
  cases hrow
  rw [hexec, finish_error]

/-- The three cells that CALL writes lie inside the stack if the last does (R154). -/
theorem frameCells_inStack (h : s.sp + 3 ≤ (s.params.stackCap : Int) - 1) :
    ∀ c ∈ [s.sp + 1, s.sp + 2, s.sp + 3], c ≤ (s.params.stackCap : Int) - 1 := by
  intro c hc
  simp only [List.mem_cons, List.not_mem_nil, or_false] at hc
  omega

/-- An instruction whose row of R176 names no fault completes, unless it pushes above the stack. -/
theorem exec_of_row_none (h : faultTable i s = none) :
    exec i s = answer s (stackCellsWritten i s) (completion i s) := by
  cases i with
  | add | sub | mul | lt | gt | leq | geq | eq | and | or => exact binaryOp_answer (needTwo_eq_none.mp h) rfl
  | div | mod =>
    obtain ⟨hsp, hdivisor⟩ := divisionRow_eq_none.mp h
    exact binaryOp_answer hsp (if_neg hdivisor)
  | not | neg => exact unaryOp_answer _ (needOne_eq_none.mp h)
  | jmp => exact execJmp_of_nonneg (needOne_eq_none.mp h)
  | jmpt | jmpf => exact condJump_answer _ (needTwo_eq_none.mp h)
  | const literal => exact execConst_answer s literal
  | load =>
    obtain ⟨h0, he, hcap⟩ := addressRow_eq_none.mp h
    exact execLoad_answer h0 he hcap
  | store offset =>
    obtain ⟨h0, he, hcap⟩ := addressRow_eq_none.mp h
    exact (execStore_of_ok h0 he hcap).trans (answer_singleton_of_le (Int.le_sub_one_of_lt hcap)).symm
  | gload =>
    obtain ⟨h0, ha, hb⟩ := addressRow_eq_none.mp h
    exact execGload_answer h0 ha hb
  | gstore addr =>
    obtain ⟨h0, ha, hb⟩ := addressRow_eq_none.mp h
    exact execGstore_of_ok h0 ha hb
  | print => exact execPrint_of_nonneg (needOne_eq_none.mp h)
  | pop => exact execPop_of_nonneg (needOne_eq_none.mp h)
  | halt => exact congrArg Host.Outcome.next (advance_zero (s.setRun .halted))
  | call target argcount localcount =>
    obtain ⟨hroom, hlow, hhigh⟩ := callRow_eq_none.mp h
    exact (execCall_of_ok hroom hlow hhigh).trans (answer_of_inStack (frameCells_inStack hroom)).symm
  | ret =>
    obtain ⟨h0, hcap, hfp, hlow, hhigh⟩ := retRow_eq_none.mp h
    exact (execRet_of_ok h0 hfp hcap hlow hhigh).trans (answer_singleton_of_le (by omega)).symm

/-- With sp in range no push goes above the stack that the table does not name (R23, R176). -/
theorem exec_of_row_none_of_spInRange (hsp : s.sp ≤ (s.params.stackCap : Int) - 1) (h : faultTable i s = none) :
    exec i s = .next (completion i s) := by
  rw [exec_of_row_none h]
  cases i with
  | const literal =>
    have hfull := constRow_eq_none.mp h
    exact answer_singleton_of_le (by omega)
  | store offset =>
    obtain ⟨-, -, hcap⟩ := addressRow_eq_none.mp h
    exact answer_singleton_of_le (Int.le_sub_one_of_lt hcap)
  | call target argcount localcount =>
    obtain ⟨hroom, -, -⟩ := callRow_eq_none.mp h
    exact answer_of_inStack (frameCells_inStack hroom)
  | ret =>
    obtain ⟨-, -, -, -, hhigh⟩ := retRow_eq_none.mp h
    exact answer_singleton_of_le (by omega)
  | not | neg | load | gload => exact answer_singleton_of_le hsp
  | add | sub | mul | div | mod | lt | gt | leq | geq | eq | and | or => exact answer_singleton_of_le (by omega)
  | jmp | jmpt | jmpf | gstore | print | pop | halt => exact answer_nil s _

/-- Every instruction in every state takes a fault or completes (R110). -/
theorem exec_eq_takeFault_or_completion (i : Instr) (s : State) :
    (∃ k, exec i s = .next (takeFault k s)) ∨ exec i s = .next (completion i s) := by
  cases h : faultTable i s with
  | some k => exact .inl ⟨k, exec_of_row_some h⟩
  | none =>
    rw [exec_of_row_none h]
    exact (answer_cases s _ _).symm.imp_left fun hover => ⟨_, hover⟩

theorem exec_cases (h : exec i s = .next t) : (∃ k, t = takeFault k s) ∨ t = completion i s := by
  rcases exec_eq_takeFault_or_completion i s with ⟨k, hexec⟩ | hexec <;> rw [hexec] at h <;> cases h
  · exact .inl ⟨k, rfl⟩
  · exact .inr rfl

end Execution

section CompletionFields

variable (i : Instr) (s : State)

@[simp] theorem completion_prog : (completion i s).prog = s.prog := by cases i <;> rfl
@[simp] theorem completion_params : (completion i s).params = s.params := by cases i <;> rfl
@[simp] theorem completion_resets : (completion i s).resets = s.resets := by cases i <;> rfl
@[simp] theorem completion_faultRec : (completion i s).faultRec = s.faultRec := by cases i <;> rfl

/-- Only HALT changes the run state (R161). -/
@[simp] theorem completion_run : (completion i s).run = if i = .halt then .halted else s.run := by cases i <;> rfl

/-- Only PRINT emits (R160). -/
@[simp] theorem completion_out : (completion i s).out = if i = .print then s.out ++ [topCell s] else s.out := by
  cases i <;> rfl

end CompletionFields

end Sys2Proof.Machine
end

section
/-! SUPPORT. R7, R20 to R27, R31, R35 and R51: the invariant of the unit through each update, a fault, a completion and a step,
and the proofs of O2 and O6 to O8. -/

namespace Sys2Proof.Machine

section Invariant

variable {s : State} {v : Int}

/-- A unit with the invariant that is not FAULTED: its record is clear and describes no state, so the registers can change
one by one. -/
structure Unfaulted (s : State) : Prop where
  inv : s.Inv
  notFaulted : s.run ≠ .faulted

namespace Unfaulted

theorem setPc (h : Unfaulted s) (hv : cellFits s.params.width v = true) : Unfaulted (s.setPc v) :=
  ⟨{ h.inv with pcFits := hv, recordTaken := fun e => absurd e h.notFaulted }, h.notFaulted⟩

theorem setFp (h : Unfaulted s) (hv : cellFits s.params.width v = true) : Unfaulted (s.setFp v) :=
  ⟨{ h.inv with fpFits := hv, recordTaken := fun e => absurd e h.notFaulted }, h.notFaulted⟩

theorem setSpReg (h : Unfaulted s) (hlow : -1 ≤ v) (hhigh : v ≤ (s.params.stackCap : Int) - 1) :
    Unfaulted (s.setSpReg v) :=
  ⟨{ h.inv with spLow := hlow, spHigh := hhigh, recordTaken := fun e => absurd e h.notFaulted }, h.notFaulted⟩

theorem halt (h : Unfaulted s) : Unfaulted (s.setRun .halted) :=
  ⟨{ h.inv with recordClear := fun _ => h.inv.recordClear h.notFaulted, recordTaken := fun e => nomatch e }, nofun⟩

theorem stackWrite (h : Unfaulted s) {i : Nat} (hi : i < s.params.stackCap) (hv : cellFits s.params.width v = true) :
    Unfaulted (stackWrite s i v) :=
  ⟨{ h.inv with
      stackWf := Memory.wf_write h.inv.stackWf i v
      stackWithin := Memory.within_write h.inv.stackWithin hi v
      stackFits := Memory.fits_write h.inv.stackFits i hv
      recordTaken := fun e => absurd e h.notFaulted }, h.notFaulted⟩

theorem globalWrite (h : Unfaulted s) {i : Nat} (hi : i < s.params.globalSize)
    (hv : cellFits s.params.width v = true) : Unfaulted (globalWrite s i v) :=
  ⟨{ h.inv with
      globalsWf := Memory.wf_write h.inv.globalsWf i v
      globalsWithin := Memory.within_write h.inv.globalsWithin hi v
      globalsFits := Memory.fits_write h.inv.globalsFits i hv
      recordTaken := fun e => absurd e h.notFaulted }, h.notFaulted⟩

theorem emit (h : Unfaulted s) (hv : cellFits s.params.width v = true) : Unfaulted (s.setOut (s.out ++ [v])) :=
  ⟨{ h.inv with
      outFits := by simpa [hv] using h.inv.outFits
      recordTaken := fun e => absurd e h.notFaulted }, h.notFaulted⟩

theorem pushAt (h : Unfaulted s) {n : Int} (hlow : 0 ≤ n) (hhigh : n ≤ (s.params.stackCap : Int) - 1)
    (hv : cellFits s.params.width v = true) : Unfaulted (s.pushAt n v) :=
  (h.setSpReg (by omega) hhigh).stackWrite (show n.toNat < s.params.stackCap by omega) hv

theorem pop (h : Unfaulted s) (hsp : 0 ≤ s.sp) : Unfaulted (s.setSpReg (s.sp - 1)) :=
  have hhigh := h.inv.spHigh
  h.setSpReg (by omega) (by omega)

end Unfaulted

/-- Taking a fault keeps the invariant, from every run state (R180, R181). -/
theorem takeFault_inv (h : s.Inv) (k : FaultKind) : (takeFault k s).Inv :=
  { h with
    recordClear := fun e => absurd rfl e
    recordTaken := fun _ => ⟨k, { (takeFault_faultedFrom k s).record with }⟩ }

section Cells

theorem stackCell_fits_of_inv (h : s.Inv) (i : Nat) : cellFits s.params.width (stackCell s i) = true :=
  stackCell_fits (width_pos h.covered) h.stackFits i

theorem globalCell_fits_of_inv (h : s.Inv) (i : Nat) : cellFits s.params.width (globalCell s i) = true :=
  globalCell_fits (width_pos h.covered) h.globalsFits i

/-- An index of the stack is a cell (R6). -/
theorem stackIndex_fits (hc : covered s = true) {n : Int} (hlow : 0 ≤ n) (hhigh : n ≤ (s.params.stackCap : Int) - 1) :
    cellFits s.params.width n = true := by
  have hcap := (stackCap_bounds hc).2
  rw [cellFits_iff]
  omega

/-- Behind an opcode cell of the stream the next four indices are cells (R6, R22). -/
theorem nextIndex_fits (hc : covered s = true) (hpc : PcInRange s) {j : Int} (h0 : 0 ≤ j) (h4 : j ≤ 4) :
    cellFits s.params.width (s.pc + j) = true := by
  have hlen := progLen_bound hc
  obtain ⟨hlow, hhigh⟩ := hpc
  rw [cellFits_iff]
  omega

theorem small_fits (hc : covered s = true) (h0 : 0 ≤ v) (h1 : v ≤ 1) : cellFits s.params.width v = true := by
  have hpow := two_pow_pred_ge (width_bound hc)
  rw [cellFits_iff]
  omega

theorem truthCell_fits (hc : covered s = true) (b : Bool) : cellFits s.params.width (truthCell b) = true := by
  cases b
  · exact small_fits hc (le_refl 0) (by decide)
  · exact small_fits hc (by decide) (le_refl 1)

theorem logicNot_fits (hc : covered s = true) (hv : cellFits s.params.width v = true) :
    cellFits s.params.width (logicNot v) = true := by
  unfold logicNot
  split
  · exact truthCell_fits hc false
  · split
    · exact truthCell_fits hc true
    · exact hv

end Cells

section Completing

variable {i : Instr} {target argcount localcount : Int}

theorem call_completion_inv (h : Unfaulted s) (hpc : PcInRange s)
    (hwf : (Instr.call target argcount localcount).wf s.params.width = true)
    (hrow : callRow s localcount = none) : (completion (.call target argcount localcount) s).Inv := by
  obtain ⟨hroom, hlow, hhigh⟩ := callRow_eq_none.mp hrow
  have hempty := h.inv.spLow
  have hcells := List.all_eq_true.mp hwf
  have htarget : cellFits s.params.width target = true := hcells _ (by simp [Instr.operands])
  have hargcount : cellFits s.params.width argcount = true := hcells _ (by simp [Instr.operands])
  have hreturn : cellFits s.params.width (s.pc + 3) = true :=
    nextIndex_fits h.inv.covered hpc (by decide) (by decide)
  have hcap2 : s.sp + 2 ≤ (s.params.stackCap : Int) - 1 := by omega
  have hpush1 : Unfaulted (s.pushAt (s.sp + 1) argcount) := h.pushAt (by omega) (by omega) hargcount
  have hpush2 := hpush1.pushAt (n := s.sp + 2) (by omega) hcap2 hreturn
  have hpush3 := hpush2.pushAt (n := s.sp + 3) (by omega) hroom h.inv.fpFits
  have hframe : Unfaulted (s.pushFrame argcount) :=
    hpush3.setFp (stackIndex_fits h.inv.covered (by omega) hroom)
  exact ((hframe.setSpReg hlow hhigh).setPc htarget).inv

theorem ret_completion_inv (h : Unfaulted s) (hrow : retRow s = none) : (completion .ret s).Inv := by
  obtain ⟨-, -, -, hlow, hhigh⟩ := retRow_eq_none.mp hrow
  have hcap : s.fp - 2 - stackCell s (s.fp.toNat - 2) ≤ (s.params.stackCap : Int) - 1 := by omega
  have hcaller : Unfaulted (s.setFp (stackCell s s.fp.toNat)) := h.setFp (stackCell_fits_of_inv h.inv _)
  exact ((hcaller.pushAt (by omega) hcap (stackCell_fits_of_inv h.inv _)).setPc
    (wrap_fits (width_pos h.inv.covered) _)).inv

/-- An instruction fetched at pc that completes keeps the invariant: what it writes are cells, at indices its row of R176
has checked. -/
theorem completion_inv (h : Unfaulted s) (hpc : PcInRange s) (hwf : i.wf s.params.width = true)
    (hrow : faultTable i s = none) : (completion i s).Inv := by
  have hc := h.inv.covered
  have hw := width_pos hc
  have hlow := h.inv.spLow
  have hhigh := h.inv.spHigh
  have htop : cellFits s.params.width (topCell s) = true := stackCell_fits_of_inv h.inv _
  have hsecond : cellFits s.params.width (secondCell s) = true := stackCell_fits_of_inv h.inv _
  have hnext : cellFits s.params.width (s.pc + 1) = true := nextIndex_fits hc hpc (by decide) (by decide)
  have hnext2 : cellFits s.params.width (s.pc + 2) = true := nextIndex_fits hc hpc (by decide) (by decide)
  have binary {v : Int} (hsp : 1 ≤ s.sp) (hv : cellFits s.params.width v = true) :
      ((s.pushAt (s.sp - 1) v).setPc (s.pc + 1)).Inv :=
    ((h.pushAt (n := s.sp - 1) (by omega) (by omega) hv).setPc hnext).inv
  have unary {v : Int} (hsp : 0 ≤ s.sp) (hv : cellFits s.params.width v = true) :
      ((s.pushAt s.sp v).setPc (s.pc + 1)).Inv := ((h.pushAt hsp hhigh hv).setPc hnext).inv
  have jump {target : Int} (hsp : 1 ≤ s.sp) (ht : cellFits s.params.width target = true) :
      ((s.setSpReg (s.sp - 2)).setPc target).Inv :=
    ((h.setSpReg (v := s.sp - 2) (by omega) (by omega)).setPc ht).inv
  cases i with
  | add | sub | mul => exact binary (needTwo_eq_none.mp hrow) (wrap_fits hw _)
  | div => exact binary (divisionRow_eq_none.mp hrow).1 (wrap_fits hw _)
  | mod => exact binary (divisionRow_eq_none.mp hrow).1 (aluMod_fits hsecond _)
  | lt | gt | leq | geq | eq | and | or => exact binary (needTwo_eq_none.mp hrow) (truthCell_fits hc _)
  | not => exact unary (needOne_eq_none.mp hrow) (logicNot_fits hc htop)
  | neg => exact unary (needOne_eq_none.mp hrow) (wrap_fits hw _)
  | jmp => exact ((h.pop (needOne_eq_none.mp hrow)).setPc htop).inv
  | jmpt | jmpf =>
    refine jump (needTwo_eq_none.mp hrow) ?_
    split
    · exact htop
    · exact hnext
  | const literal =>
    have hfull := constRow_eq_none.mp hrow
    have hliteral : cellFits s.params.width literal = true := by simpa [Instr.wf, Instr.operands] using hwf
    exact ((h.pushAt (n := s.sp + 1) (by omega) (by omega) hliteral).setPc hnext2).inv
  | load => exact unary (addressRow_eq_none.mp hrow).1 (stackCell_fits_of_inv h.inv _)
  | gload => exact unary (addressRow_eq_none.mp hrow).1 (globalCell_fits_of_inv h.inv _)
  | store offset =>
    obtain ⟨hsp, he, hcap⟩ := addressRow_eq_none.mp hrow
    have hindex : (storeIndex s.fp offset).toNat < s.params.stackCap := by
      rw [storeIndex]
      omega
    exact (((h.pop hsp).stackWrite hindex htop).setPc hnext2).inv
  | gstore addr =>
    obtain ⟨hsp, he, hsize⟩ := addressRow_eq_none.mp hrow
    have hindex : addr.toNat < s.params.globalSize := by omega
    exact (((h.pop hsp).globalWrite hindex htop).setPc hnext2).inv
  | print => exact (((h.pop (needOne_eq_none.mp hrow)).emit htop).setPc hnext).inv
  | pop => exact ((h.pop (needOne_eq_none.mp hrow)).setPc hnext).inv
  | halt => exact (h.halt.setPc hnext).inv
  | call target argcount localcount => exact call_completion_inv h hpc hwf hrow
  | ret => exact ret_completion_inv h hrow

end Completing

end Invariant

/-- Settles O6: a fault writes the record alone, and an instruction that completes writes checked cells. -/
theorem everyStepKeepsTheInvariant : Obligations.EveryStepKeepsTheInvariant := by
  intro s t hi h
  rcases step_cases h with ⟨-, rfl⟩ | ⟨hr, hc, ⟨k, -, rfl⟩ | ⟨i, hf, hexec⟩⟩
  · exact hi
  · exact takeFault_inv hi k
  · cases hrow : faultTable i s with
    | some k =>
      rw [exec_of_row_some hrow] at hexec
      cases hexec
      exact takeFault_inv hi k
    | none =>
      rw [exec_of_row_none_of_spInRange hi.spHigh hrow] at hexec
      cases hexec
      exact completion_inv ⟨hi, by simp [hr]⟩ (pcInRange_of_fetched hf) (fetched_wf hc hf) hrow

section Reachable

variable {p : Params} {prog : List Int}

theorem atReset_inv (hp : p.wf = true) (hlen : progLenOk p.width prog = true)
    (hcells : progCellsOk p.width prog = true) (n : Nat) : (State.atReset p prog n).Inv := by
  have hc : covered (State.atReset p prog n) = true := by simp [covered, State.atReset, hp, hlen, hcells]
  have hcap := (stackCap_bounds hc).1
  obtain ⟨hpc, hfp⟩ : cellFits p.width p.pcReset = true ∧ cellFits p.width p.fpReset = true := by
    simpa [Params.resetsOk] using (Bool.and_eq_true_iff.mp hp).2
  refine ⟨hc, hpc, hfp, le_refl _, ?_, Memory.wf_nil, Memory.within_nil _, Memory.fits_nil _, Memory.wf_nil,
    Memory.within_nil _, Memory.fits_nil _, rfl, fun _ => rfl, nofun⟩
  show (-1 : Int) ≤ _
  omega

theorem step_keeps_constants {s t : State} (h : step s = .next t) :
    t.prog = s.prog ∧ t.params = s.params ∧ t.resets = s.resets := by
  rcases step_cases h with ⟨-, rfl⟩ | ⟨-, -, ⟨k, -, rfl⟩ | ⟨i, -, hexec⟩⟩
  · exact ⟨rfl, rfl, rfl⟩
  · exact ⟨rfl, rfl, rfl⟩
  · rcases exec_cases hexec with ⟨k, rfl⟩ | rfl
    · exact ⟨rfl, rfl, rfl⟩
    · exact ⟨completion_prog i s, completion_params i s, completion_resets i s⟩

end Reachable

/-- Settles O2: at reset nothing is listed or emitted, and R6 bounds the two registers. -/
theorem resetStatesHaveTheInvariant : Obligations.ResetStatesHaveTheInvariant :=
  ⟨fun _ _ n hp hlen hcells => atReset_inv hp hlen hcells n, atReset_inv (by decide) (by decide) (by decide) 0⟩

/-- Settles O8: neither a fault nor a completion writes the constants of the unit. -/
theorem stepNeverChangesTheProgram : Obligations.StepNeverChangesTheProgram :=
  fun _ _ => step_keeps_constants

/-- Settles O7: the invariant and the constants of the unit hold along the run. -/
theorem reachableStackPointerInRange : Obligations.ReachableStackPointerInRange := by
  intro p prog n k t hp hlen hcells hrun
  obtain ⟨hinv, rfl, rfl⟩ : t.Inv ∧ t.params = p ∧ t.prog = prog := by
    refine run_invariant (P := fun u => u.Inv ∧ u.params = p ∧ u.prog = prog) hrun
      ⟨atReset_inv hp hlen hcells n, rfl, rfl⟩ fun m x y _ _ ⟨hx, hparams, hprog⟩ hstep => ?_
    obtain ⟨hprog', hparams', -⟩ := step_keeps_constants hstep
    exact ⟨everyStepKeepsTheInvariant x y hx hstep, hparams'.trans hparams, hprog'.trans hprog⟩
  exact ⟨hinv.spLow, hinv.spHigh, rfl, rfl⟩

end Sys2Proof.Machine
end

section
/-! SUPPORT. R11, R25, R27, R33, R42, R100, R101, R161, R176 and R180: what a step can end in, from the closed form of the
completions, and the proofs of O9 to O16 and O55. -/

namespace Sys2Proof.Machine

/-- Settles O9: a running unit comes to FAULTED by taking a fault only, and taking one writes the record alone. -/
theorem faultsArePrecise : Obligations.FaultsArePrecise := by
  intro s t hr hstep ht
  obtain ⟨k, rfl⟩ := eq_takeFault_of_step_faulted hr hstep ht
  exact ⟨k, takeFault_faultedFrom k s⟩

/-- Settles O10: a row that names a fault is taken precisely, and one that names none leads to the completion. -/
theorem faultTableDecidesEveryInstruction : Obligations.FaultTableDecidesEveryInstruction := by
  refine fun i s hi => ⟨fun k hrow => ?_, fun hrow => ?_⟩
  · exact ⟨_, exec_of_row_some hrow, takeFault_faultedFrom k s⟩
  · exact ⟨_, exec_of_row_none_of_spInRange hi.spHigh hrow, completion_faultRec i s, completion_run i s⟩

/-- Settles O11: a fault ends in FAULTED, and among the completions only HALT's writes the run state. -/
theorem haltIsTheOnlyCleanEnd : Obligations.HaltIsTheOnlyCleanEnd := by
  intro s t hr hstep
  rcases step_cases hstep with ⟨hstopped, -⟩ | ⟨-, -, ⟨k, hf, rfl⟩ | ⟨i, hf, hexec⟩⟩
  · exact absurd hr hstopped
  · simp [hf]
  · rcases exec_cases hexec with ⟨k, rfl⟩ | rfl
    · have hhalt : i ≠ .halt := by
        rintro rfl
        exact absurd (congrArg State.run (Host.Outcome.next.inj hexec)) (by simp)
      simp [hf, hhalt]
    · simp [hf, hr]

/-- Settles O12: among the completions only PRINT's writes OUT, and the port shows what was appended. -/
theorem outputGrowsOnlyByPrint : Obligations.OutputGrowsOnlyByPrint := by
  intro s t hstep
  have hquiet (h : t.out = s.out) : t.out = s.out ∧ outPort s t = none := ⟨h, outPort_of_out_eq h⟩
  rcases step_cases hstep with ⟨-, rfl⟩ | ⟨-, -, ⟨k, -, rfl⟩ | ⟨i, hf, hexec⟩⟩
  · exact .inl (hquiet rfl)
  · exact .inl (hquiet rfl)
  · rcases exec_cases hexec with ⟨k, rfl⟩ | rfl
    · exact .inl (hquiet rfl)
    · have hout := completion_out i s
      by_cases hprint : i = .print
      · rw [if_pos hprint] at hout
        exact .inr ⟨hprint ▸ hf, hout, outPort_of_out_append hout⟩
      · rw [if_neg hprint] at hout
        exact .inl (hquiet hout)

/-- Settles O13: each of the steps answers the state it is given. -/
theorem stoppedUnitStaysAsItIs : Obligations.StoppedUnitStaysAsItIs := by
  intro k s h
  induction k with
  | zero => rfl
  | succ k ih => exact (run_succ_of_step (step_of_stopped h)).trans ih

/-- Settles O14: a fault of the fetch is a next state too, and so is every answer of an instruction. -/
theorem stepIsTotalInsideBounds : Obligations.StepIsTotalInsideBounds := by
  have hexec (i : Instr) (s : State) : ∃ t, exec i s = .next t := by
    obtain ⟨r, hr, -⟩ := exec_followsRow i s
    rw [hr]
    exact finish_next s r
  refine ⟨fun s hc => ?_, hexec⟩
  by_cases hr : s.run = .running
  · cases hf : fetchInstr s with
    | error k => exact ⟨_, step_of_fetch_error hr hc hf⟩
    | ok i => exact step_of_fetched hr hc hf ▸ hexec i s
  · exact ⟨s, step_of_stopped hr⟩

/-- Settles O15: the bounds are asked before the fetch. -/
theorem stepRefusedOutsideBounds : Obligations.StepRefusedOutsideBounds := by
  intro s hr hc
  simp only [step, hr, hc]

section OtherGlobals

variable {i : Instr} {s t : State}

theorem faultTable_setGlobals (i : Instr) (s : State) (g : Memory) :
    faultTable i (s.setGlobals g) = faultTable i s := by cases i <;> rfl

theorem stackCellsWritten_setGlobals (i : Instr) (s : State) (g : Memory) :
    stackCellsWritten i (s.setGlobals g) = stackCellsWritten i s := by cases i <;> rfl

/-- What an instruction other than GLOAD leaves outside global memory does not depend on global memory (R33). -/
theorem completion_setGlobals (hi : i ≠ .gload) (s : State) (g : Memory) :
    ∃ g', completion i (s.setGlobals g) = (completion i s).setGlobals g' := by
  cases i with
  | gload => exact absurd rfl hi
  | gstore addr => exact ⟨g.write addr.toNat (topCell s), rfl⟩
  | _ => exact ⟨g, rfl⟩

theorem answer_setGlobals {cells : List Int} {u : State} (h : answer s cells t = .next u) (g g' : Memory) :
    ∃ g'', answer (s.setGlobals g) cells (t.setGlobals g') = .next (u.setGlobals g'') := by
  by_cases hroom : cells.all (fun c => decide (c ≤ (s.params.stackCap : Int) - 1)) = true
  · rw [answer, if_pos hroom] at h
    cases h
    exact ⟨g', if_pos hroom⟩
  · rw [answer, if_neg hroom] at h
    cases h
    exact ⟨g, if_neg hroom⟩

theorem exec_setGlobals (hi : i ≠ .gload) (h : exec i s = .next t) (g : Memory) :
    ∃ g', exec i (s.setGlobals g) = .next (t.setGlobals g') := by
  have hrow' := faultTable_setGlobals i s g
  cases hrow : faultTable i s with
  | some k =>
    rw [hrow] at hrow'
    rw [exec_of_row_some hrow] at h
    cases h
    exact ⟨g, exec_of_row_some hrow'⟩
  | none =>
    rw [hrow] at hrow'
    obtain ⟨g', hcompletion⟩ := completion_setGlobals hi s g
    rw [exec_of_row_none hrow] at h
    rw [exec_of_row_none hrow', stackCellsWritten_setGlobals, hcompletion]
    exact answer_setGlobals h g g'

end OtherGlobals

/-- Settles O16: in another global memory the instruction takes the same row, and completes alike outside that memory. -/
theorem globalsSeenOnlyByGload : Obligations.GlobalsSeenOnlyByGload := by
  intro i s t g hi h
  obtain ⟨g', hexec⟩ := exec_setGlobals hi h g
  exact ⟨_, hexec, rfl, rfl, rfl, rfl, rfl, rfl, rfl, rfl, rfl⟩

/-- Settles O55: the row of HALT names no fault in any state, and HALT writes pc and the run state alone. -/
theorem haltStopsAndTouchesNothingElse : Obligations.HaltStopsAndTouchesNothingElse :=
  fun _ => ⟨_, exec_of_row_none rfl, rfl, rfl, rfl, rfl, rfl, rfl, rfl, rfl, fun _ => rfl, fun _ => rfl⟩

end Sys2Proof.Machine
end

section
/-! SUPPORT. R120, R140 and R154 to R158: what a pushed cell leaves readable, the frame that CALL builds and RET takes away in
any state between, and the proofs of O37 and O50 to O53. -/

namespace Sys2Proof.Machine

section PushedCells

variable {s : State} {n v : Int}

theorem stackCell_pushAt (s : State) (n v : Int) (j : Nat) :
    stackCell (s.pushAt n v) j = if j = n.toNat then v else stackCell s j :=
  stackCell_stackWrite (s.setSpReg n) n.toNat j v

theorem stackSetAt_pushAt (s : State) (n v : Int) : StackSetAt s (s.pushAt n v) n.toNat v :=
  stackSetAt_stackWrite_setSpReg s n n.toNat v

theorem completed_pushAt (s : State) (n v : Int) : Completed s (s.pushAt n v) s.pc n s.fp :=
  (completed_setSpReg s n).stackWrite n.toNat v

/-- CONST with room needs nothing of the state but that room (R140). -/
theorem const_result {literal : Int} (hroom : s.sp < (s.params.stackCap : Int) - 1) :
    ∃ t, exec (.const literal) s = .next t ∧ Completed s t (s.pc + 2) (s.sp + 1) s.fp ∧ t.out = s.out ∧
      StackSetAt s t (s.sp + 1).toNat literal ∧ SameGlobals s t :=
  ⟨_, execConst_of_room hroom, (completed_pushAt s (s.sp + 1) literal).setPc _, rfl,
    stackSetAt_pushAt s (s.sp + 1) literal, fun _ => rfl⟩

end PushedCells

/-- Settles O37: the two literals are the operands, and their quotient is a cell, so DIV does not wrap it. -/
theorem divOfPushedConstantsIsTheirQuotient : Obligations.DivOfPushedConstantsIsTheirQuotient := by
  intro s x y hi hx hy hroom hy0 hex
  have hlow := hi.spLow
  obtain ⟨s1, hexec1, hc1, -, hset1, -⟩ := const_result (s := s) (literal := x) (by omega)
  obtain ⟨s2, hexec2, hc2, -, hset2, -⟩ := const_result (s := s1) (literal := y) (by rw [hc1.sp, hc1.params]; omega)
  have hsp2 : s2.sp = s.sp + 2 := by rw [hc2.sp, hc1.sp]; omega
  have hparams : s2.params = s.params := hc2.params.trans hc1.params
  have htop : topCell s2 = y := by
    rw [topCell, hc2.sp]
    exact hset2.1
  have hbelow {j : Nat} (hj : (j : Int) ≤ s.sp + 1) : stackCell s2 j = stackCell s1 j :=
    hset2.2 j (by rw [hc1.sp]; omega)
  have hsecond : secondCell s2 = x := by
    rw [secondCell, hbelow (by omega), show s2.sp.toNat - 1 = (s.sp + 1).toNat by omega]
    exact hset1.1
  have hdiv : exec .div s2 = .next ((s2.pushAt (s2.sp - 1) (Int.tdiv x y)).setPc (s2.pc + 1)) := by
    refine (binaryOp_answer (by omega) ?_).trans (answer_singleton_of_le (by rw [hparams]; omega))
    rw [htop, hsecond, hparams, if_neg hy0, aluDiv_eq_tdiv (width_pos hi.covered) hx hy0 hex]
  refine ⟨s1, s2, _, hexec1, hexec2, hdiv, ?_, (stackSetAt_pushAt s2 (s2.sp - 1) _).1, hc2.run.trans hc1.run,
    fun j hj => ?_⟩
  · show s2.sp - 1 = s.sp + 1
    omega
  · exact ((stackSetAt_pushAt s2 (s2.sp - 1) _).2 j (by omega)).trans
      ((hbelow (by omega)).trans (hset1.2 j (by omega)))

section Frames

variable {s u : State} {target argcount localcount : Int}

/-- What CALL leaves when it completes (R154, R155). -/
theorem call_result (hempty : -1 ≤ s.sp) (hroom : s.sp + 3 ≤ (s.params.stackCap : Int) - 1)
    (hlow : -1 ≤ s.sp + 3 + localcount) (hhigh : s.sp + 3 + localcount ≤ (s.params.stackCap : Int) - 1) :
    ∃ t, exec (.call target argcount localcount) s = .next t ∧
      Completed s t target (s.sp + 3 + localcount) (s.sp + 3) ∧ t.out = s.out ∧
      stackCell t (s.sp + 1).toNat = argcount ∧ stackCell t (s.sp + 2).toNat = s.pc + 3 ∧
      stackCell t (s.sp + 3).toNat = s.fp ∧
      (∀ j : Nat, (j : Int) ≠ s.sp + 1 → (j : Int) ≠ s.sp + 2 → (j : Int) ≠ s.sp + 3 →
        stackCell t j = stackCell s j) ∧ SameGlobals s t := by
  have hcell (j : Nat) : stackCell (completion (.call target argcount localcount) s) j =
      if j = (s.sp + 3).toNat then s.fp else if j = (s.sp + 2).toNat then s.pc + 3
      else if j = (s.sp + 1).toNat then argcount else stackCell s j := by
    simp only [completion, State.pushFrame, stackCell_setPc, stackCell_setSpReg, stackCell_setFp, stackCell_pushAt]
  refine ⟨_, execCall_of_ok hroom hlow hhigh, ⟨rfl, rfl, rfl, rfl, rfl, rfl, rfl, rfl⟩, rfl, ?_, ?_, ?_,
    fun j h1 h2 h3 => ?_, fun _ => rfl⟩
  · rw [hcell, if_neg (by omega), if_neg (by omega), if_pos rfl]
  · rw [hcell, if_neg (by omega), if_pos rfl]
  · rw [hcell, if_pos rfl]
  · rw [hcell, if_neg (by omega), if_neg (by omega), if_neg (by omega)]

/-- What RET leaves when it completes (R156). -/
theorem ret_result {n : Int} (h0 : 0 ≤ s.sp) (hfp : 2 ≤ s.fp) (hcap : s.fp ≤ (s.params.stackCap : Int) - 1)
    (hn : n = s.fp - 3 - stackCell s (s.fp.toNat - 2)) (hlow : -1 ≤ n)
    (hhigh : n ≤ (s.params.stackCap : Int) - 2) :
    ∃ t, exec .ret s = .next t ∧
      Completed s t (wrap s.params.width (stackCell s (s.fp.toNat - 1) + 1)) (n + 1) (stackCell s s.fp.toNat) ∧
      t.out = s.out ∧ StackSetAt s t (n + 1).toNat (topCell s) ∧ SameGlobals s t := by
  subst hn
  rw [show s.fp - 3 - stackCell s (s.fp.toNat - 2) + 1 = s.fp - 2 - stackCell s (s.fp.toNat - 2) by omega]
  exact ⟨_, execRet_of_ok h0 hfp hcap hlow hhigh, ⟨rfl, rfl, rfl, rfl, rfl, rfl, rfl, rfl⟩, rfl,
    stackSetAt_pushAt s _ (topCell s), fun _ => rfl⟩

/-- `u` runs in the frame that a CALL with `argcount` arguments built at `s`: same unit, fp at the frame, and the three
bookkeeping cells as CALL wrote them (R154). -/
structure InFrame (s : State) (argcount : Int) (u : State) : Prop where
  params : u.params = s.params
  fp : u.fp = s.sp + 3
  argcount : stackCell u (s.sp + 1).toNat = argcount
  returnAddress : stackCell u (s.sp + 2).toNat = s.pc + 3
  callerFp : stackCell u (s.sp + 3).toNat = s.fp

/-- RET from the frame of a CALL at `s` gives the arguments' place to the result and goes back to the caller (R156, R157). -/
theorem InFrame.ret_result (h : InFrame s argcount u) (hu : 0 ≤ u.sp) (hempty : -1 ≤ s.sp)
    (hroom : s.sp + 3 ≤ (s.params.stackCap : Int) - 1) (h0 : 0 ≤ argcount) (hargs : argcount ≤ s.sp + 1) :
    ∃ t, exec .ret u = .next t ∧
      Completed u t (wrap s.params.width (s.pc + 4)) (s.sp - argcount + 1) s.fp ∧ t.out = u.out ∧
      StackSetAt u t (s.sp - argcount + 1).toNat (topCell u) ∧ SameGlobals u t := by
  obtain ⟨hparams, hfp, hcount, hreturn, hcaller⟩ := h
  have hi0 : u.fp.toNat = (s.sp + 3).toNat := by omega
  have hi1 : u.fp.toNat - 1 = (s.sp + 2).toNat := by omega
  have hi2 : u.fp.toNat - 2 = (s.sp + 1).toNat := by omega
  have hpc : s.pc + 3 + 1 = s.pc + 4 := by omega
  have hret := Machine.ret_result (s := u) (n := s.sp - argcount) hu (by omega) (by rw [hparams]; omega)
    (by rw [hi2, hcount]; omega) (by omega) (by rw [hparams]; omega)
  rwa [hi1, hi0, hcaller, hreturn, hparams, hpc] at hret

/-- CONST and LOAD with the negated argument count fetch the first-pushed argument to a new top, and the frame stays (R142). -/
theorem InFrame.load_first_argument (h : InFrame s argcount u) (hempty : -1 ≤ s.sp) (h1 : 1 ≤ argcount)
    (hargs : argcount ≤ s.sp + 1) (hsp : s.sp + 3 ≤ u.sp) (hroom : u.sp < (s.params.stackCap : Int) - 1) :
    ∃ v t, exec (.const (-argcount)) u = .next v ∧ exec .load v = .next t ∧ InFrame s argcount t ∧ t.sp = u.sp + 1 ∧
      topCell t = stackCell u (s.sp - argcount + 1).toNat ∧ t.run = u.run ∧ t.out = u.out ∧ SameGlobals u t ∧
      ∀ j : Nat, (j : Int) ≤ u.sp → stackCell t j = stackCell u j := by
  obtain ⟨v, hconst, hcv, houtv, ⟨htopv, hotherv⟩, hgv⟩ :=
    const_result (s := u) (literal := -argcount) (by rw [h.params]; omega)
  have hfp : v.fp = s.sp + 3 := hcv.fp.trans h.fp
  have hparams : v.params = s.params := hcv.params.trans h.params
  have hspv := hcv.sp
  have hindex : loadIndex v.fp (topCell v) = s.sp - argcount + 1 := by
    rw [topCell, hspv, htopv, loadIndex, if_pos (by omega), hfp]
    omega
  have hload := execLoad_of_ok (s := v) (by rw [hparams]; omega) (by omega) (by omega) (by rw [hparams]; omega)
  rw [hindex] at hload
  obtain ⟨hct, houtt, ⟨htopt, hothert⟩, hgt⟩ :=
    unaryResult_stackWrite_setPc v (stackCell v (s.sp - argcount + 1).toNat)
  generalize (stackWrite v v.sp.toNat (stackCell v (s.sp - argcount + 1).toNat)).setPc (v.pc + 1) = t at *
  have hbelow (j : Nat) (hj : (j : Int) ≤ u.sp) : stackCell t j = stackCell u j :=
    (hothert j (by omega)).trans (hotherv j (by omega))
  refine ⟨v, t, hconst, hload, ⟨hct.params.trans hparams, hct.fp.trans hfp, ?_, ?_, ?_⟩, hct.sp.trans hspv, ?_,
    hct.run.trans hcv.run, houtt.trans houtv, fun j => (hgt j).trans (hgv j), hbelow⟩
  · exact (hbelow _ (by omega)).trans h.argcount
  · exact (hbelow _ (by omega)).trans h.returnAddress
  · exact (hbelow _ (by omega)).trans h.callerFp
  · rw [topCell, hct.sp, htopt]
    exact hotherv _ (by omega)

/-- The pc that RET restores is `p + 4` modulo `2^W`, and just that for a CALL inside the stream (R6, D16). -/
theorem return_pc (hc : covered s = true) : wrap s.params.width (s.pc + 4) = Int.bmod (s.pc + 4) (2 ^ s.params.width) ∧
    (PcInRange s → wrap s.params.width (s.pc + 4) = s.pc + 4) :=
  ⟨wrap_eq_bmod (width_pos hc) _,
    fun hpc => wrap_of_fits (width_pos hc) (nextIndex_fits hc hpc (by decide) (le_refl 4))⟩

end Frames

/-- Settles O50: three pushes write the frame, and the reservation of the locals writes no cell. -/
theorem callBuildsTheFrame : Obligations.CallBuildsTheFrame :=
  fun _ _ _ _ hi hroom hlow hhigh => call_result hi.spLow hroom hlow hhigh

/-- Settles O51: RET reads the three bookkeeping cells and writes the result's cell alone. -/
theorem retUnwindsTheFrame : Obligations.RetUnwindsTheFrame := by
  intro s n hi h0 hfp hcap hn hlow hhigh
  rw [← wrap_eq_bmod (width_pos hi.covered)]
  exact ret_result h0 hfp hcap hn hlow hhigh

/-- Settles O52: the later state is in the frame that CALL built, whatever the callee did elsewhere. -/
theorem callThenRetRestoresTheCaller : Obligations.CallThenRetRestoresTheCaller := by
  intro s s1 s2 target argcount localcount hi hroom h0 hargs hlow hhigh hcall _ hparams hfp hsp hc0 hc1 hc2
  have hempty := hi.spLow
  obtain ⟨t1, hcall', hdone, -, hcount, hreturn, hcaller, -, -⟩ :=
    call_result (target := target) (argcount := argcount) hempty hroom hlow hhigh
  obtain rfl : s1 = t1 := Host.Outcome.next.inj (hcall.symm.trans hcall')
  rw [hdone.fp] at hfp hc0 hc1 hc2
  rw [show (s.sp + 3).toNat - 1 = (s.sp + 2).toNat by omega, hreturn] at hc1
  rw [show (s.sp + 3).toNat - 2 = (s.sp + 1).toNat by omega, hcount] at hc2
  have hframe : InFrame s argcount s2 := ⟨hparams.trans hdone.params, hfp, hc2, hc1, hc0.trans hcaller⟩
  obtain ⟨t, hret, ht, -, ⟨htop, hother⟩, -⟩ := hframe.ret_result hsp hempty hroom h0 hargs
  obtain ⟨hpc, hpc'⟩ := return_pc hi.covered
  refine ⟨t, hret, ht.sp, ht.fp, ht.pc.trans hpc, fun hin => ht.pc.trans (hpc' hin), ?_, fun j hj => ?_⟩
  · rw [topCell, ht.sp, htop]
  · rw [ht.sp] at hj
    exact hother j (by omega)

/-- Settles O53: the first argument is loaded above the frame, so the callee is still in its frame when it returns. -/
theorem callReturningItsFirstArgument : Obligations.CallReturningItsFirstArgument := by
  intro s target argcount localcount hi h1 hargs hlocals hroom
  have hempty := hi.spLow
  obtain ⟨s1, hcall, hc1, hout1, hcount, hreturn, hcaller, hother1, hg1⟩ :=
    call_result (s := s) (target := target) (argcount := argcount) (localcount := localcount) hempty (by omega)
      (by omega) (by omega)
  have hsp1 := hc1.sp
  have hframe1 : InFrame s argcount s1 := ⟨hc1.params, hc1.fp, hcount, hreturn, hcaller⟩
  obtain ⟨s2, s3, hconst, hload, hframe3, hsp3, htop3, hrun3, hout3, hg3, hbelow3⟩ :=
    hframe1.load_first_argument hempty h1 hargs (by omega) (by omega)
  obtain ⟨t, hret, ht, hout, ⟨htop, hother⟩, hg⟩ :=
    hframe3.ret_result (by omega) hempty (by omega) (by omega) hargs
  obtain ⟨hpc, hpc'⟩ := return_pc hi.covered
  have hspt := ht.sp
  refine ⟨s1, s2, s3, t, hcall, hconst, hload, hret, hspt, ?_, ht.fp, ht.pc.trans hpc,
    fun hin => ht.pc.trans (hpc' hin), ht.run.trans (hrun3.trans hc1.run), hout.trans (hout3.trans hout1),
    fun j => (hg j).trans ((hg3 j).trans (hg1 j)), fun j hj => ?_⟩
  · rw [topCell, hspt, htop, htop3]
    exact hother1 _ (by omega) (by omega) (by omega)
  · rw [hother j (by omega), hbelow3 j (by omega)]
    exact hother1 j (by omega) (by omega) (by omega)

end Sys2Proof.Machine
end

section
/-! SUPPORT. R34, R35, R40, R43, R44, R106, R107 and R200: the reset state, the status and read-back ports, the checks of SetSP
and StackAddr, and the proofs of O1, O3 to O5 and O30. -/

namespace Sys2Proof.Machine

/-- Settles O1: the reset state is written out, and an unwritten cell of it reads as a cell of its width. -/
theorem resetLeavesTheSpecState : Obligations.ResetLeavesTheSpecState := by
  have hwidth : 1 ≤ State.reset.params.width := by decide
  refine ⟨rfl, rfl, rfl, rfl, rfl, rfl, rfl, fun i => ⟨rfl, ?_⟩, fun i => ⟨rfl, ?_⟩, rfl, rfl, rfl, rfl, rfl, rfl⟩
  · exact stackCell_fits hwidth (Memory.fits_nil _) i
  · exact globalCell_fits hwidth (Memory.fits_nil _) i

/-- Settles O3: the reset state takes the parameters of the unit and the supplied program, and nothing of the earlier run. -/
theorem assertResetStartsANewRun : Obligations.AssertResetStartsANewRun :=
  fun _ _ => ⟨rfl, rfl, rfl, rfl, rfl, rfl, rfl, rfl, fun _ => rfl, fun _ => rfl⟩

section Ports

variable {s : State}

theorem statusPort_of_not_faulted (h : s.run ≠ .faulted) :
    statusPort s = { run := runCode s.run, faultKind := 0, faultOpcodeValid := 0, faultOpcode := 0, faultPc := 0,
                     faultSp := 0, faultFp := 0 } := by
  simp only [statusPort, if_neg h]
  rfl

theorem statusPort_of_faulted (h : s.run = .faulted) :
    statusPort s =
      { run := 2, faultKind := faultKindCode s.faultRec.kind,
        faultOpcodeValid := (if s.faultRec.opcodeValid then 1 else 0), faultOpcode := s.faultRec.opcode,
        faultPc := s.faultRec.pc, faultSp := s.faultRec.sp, faultFp := s.faultRec.fp } := by
  simp only [statusPort, h, if_true, runCode]

/-- The host's list of a memory's cells has the cell of every index (R44). -/
theorem getElem?_map_range (f : Nat → Int) {n i : Nat} (h : i < n) : ((List.range n).map f)[i]? = some (f i) := by
  rw [List.getElem?_map, List.getElem?_range h, Option.map_some]

end Ports

/-- Settles O4: the codes are the constructors' own, and the run state selects the record that is shown. -/
theorem statusPortShowsCodes : Obligations.StatusPortShowsCodes :=
  ⟨⟨rfl, rfl, rfl⟩, ⟨rfl, rfl, rfl, rfl, rfl, rfl⟩, fun _ => statusPort_of_not_faulted, fun _ => statusPort_of_faulted⟩

/-- Settles O5: the run state decides whether anything is read, and both memories are read index by index. -/
theorem readBackOnlyWhenStopped : Obligations.ReadBackOnlyWhenStopped := by
  refine ⟨fun s h => if_pos h, fun s h => ⟨_, if_neg h, rfl, rfl, rfl, ?_, ?_, fun i => ?_, fun i => ?_⟩⟩
  · exact (List.length_map _).trans List.length_range
  · exact (List.length_map _).trans List.length_range
  · exact getElem?_map_range (stackCell s)
  · exact getElem?_map_range (globalCell s)

/-- Settles O30: each primitive has one answer on each side of its bounds, and an index inside them is `e` itself. -/
theorem setSpAndStackAddrCheckTheBounds : Obligations.SetSpAndStackAddrCheckTheBounds := by
  refine fun s e => ⟨setSp_of_high, fun hlow => setSp_of_low (by omega) hlow, fun hlow hhigh => ?_,
    stackAddr_of_outOfRange, fun hin => ?_⟩
  · exact ⟨s.setSpReg e, setSp_of_inRange hlow hhigh, rfl, rfl⟩
  · obtain ⟨h0, hcap⟩ : 0 ≤ e ∧ e < (s.params.stackCap : Int) := by omega
    exact ⟨e.toNat, stackAddr_of_inRange h0 hcap, Int.toNat_of_nonneg h0⟩

end Sys2Proof.Machine
end
